-- ==== Sys2Proof/Word.lean ====
section
/-! DEFINITION. The word types of the command port and of the sample ports. -/

namespace Sys2Proof

/-- One command word on the command port (`30_encoding.md` R80). -/
abbrev Word := BitVec 32

/-- The operand field `IMM` of a command word (`30_encoding.md` R80). -/
abbrev Imm := BitVec 24

/-- One value on a sample port, two's complement (`10_state.md` R20). -/
abbrev Sample := BitVec 20

end Sys2Proof
end

