-- ==== Sys2Proof/Syntax.lean ====
section
/-! DEFINITION. The 30 operations, one constructor per row of the opcode table (`30_encoding.md` R84). -/

namespace Sys2Proof

/-- The four units that execute operations (`00_scope.md` R2). -/
inductive UnitId where
  | cb | wg | eg | fl
  deriving DecidableEq, Repr

/-- An operation with the sub-fields its format names (`30_encoding.md` R81, R84). The bits a format does not
name are no part of the operation (R89). -/
inductive Instr where
  /-- `CB.CONSTRUCT sr`: sample rate in Hz. -/
  | cbConstruct (sr : Imm)
  /-- `CB.RESET`. -/
  | cbReset
  /-- `CB.TICK`. -/
  | cbTick
  /-- `WG.CONSTRUCT`. -/
  | wgConstruct
  /-- `WG.RESET`. -/
  | wgReset
  /-- `WG.CLOCK n`: cycles. -/
  | wgClock (n : Imm)
  /-- `WG.OUT`. -/
  | wgOut
  /-- `WG.WRFREQ f`. -/
  | wgWrfreq (f : Imm)
  /-- `WG.WRPW p`: clamped to 0..4095. -/
  | wgWrpw (p : Imm)
  /-- `WG.WRWAVE mask`. -/
  | wgWrwave (mask : BitVec 4)
  /-- `WG.WRMODEL bit`. -/
  | wgWrmodel (bit : BitVec 1)
  /-- `EG.CONSTRUCT`. -/
  | egConstruct
  /-- `EG.RESET`. -/
  | egReset
  /-- `EG.CLOCK n`: cycles. -/
  | egClock (n : Imm)
  /-- `EG.OUT`. -/
  | egOut
  /-- `EG.WRADSR a,d,s,r`. -/
  | egWradsr (att dec sus rel : BitVec 4)
  /-- `EG.WRGATE bit`. -/
  | egWrgate (bit : BitVec 1)
  /-- `FL.CONSTRUCT`. -/
  | flConstruct
  /-- `FL.RESET`. -/
  | flReset
  /-- `FL.CLOCK n`: cycles; it also reads the ports `v1`, `v2`, `v3`, `ext`. -/
  | flClock (n : Imm)
  /-- `FL.OUT`. -/
  | flOut
  /-- `FL.WRFC fc`: clamped to 0..2047. -/
  | flWrfc (fc : Imm)
  /-- `FL.WRRES res`: clamped to 0..15. -/
  | flWrres (res : Imm)
  /-- `FL.WRBOOST b`: clamped to 0..255. -/
  | flWrboost (b : Imm)
  /-- `FL.WRROUTE mask`. -/
  | flWrroute (mask : BitVec 4)
  /-- `FL.WRMODE mask`. -/
  | flWrmode (mask : BitVec 3)
  /-- `FL.WRVOL v`: clamped to 0..15. -/
  | flWrvol (v : Imm)
  /-- `FL.WRVVOL k,val`: voice index 0..2 (3 is reserved); `val` clamped to 0..256. -/
  | flWrvvol (k : BitVec 2) (val : BitVec 16)
  /-- `FL.WRDITHER bit`. -/
  | flWrdither (bit : BitVec 1)
  /-- `FL.WRMODEL bit`. -/
  | flWrmodel (bit : BitVec 1)
  deriving DecidableEq, Repr

/-- The unit that executes an operation: the `UNIT` column of the opcode map (`30_encoding.md` R84). -/
def Instr.unit : Instr → UnitId
  | .cbConstruct _ => .cb
  | .cbReset => .cb
  | .cbTick => .cb
  | .wgConstruct => .wg
  | .wgReset => .wg
  | .wgClock _ => .wg
  | .wgOut => .wg
  | .wgWrfreq _ => .wg
  | .wgWrpw _ => .wg
  | .wgWrwave _ => .wg
  | .wgWrmodel _ => .wg
  | .egConstruct => .eg
  | .egReset => .eg
  | .egClock _ => .eg
  | .egOut => .eg
  | .egWradsr _ _ _ _ => .eg
  | .egWrgate _ => .eg
  | .flConstruct => .fl
  | .flReset => .fl
  | .flClock _ => .fl
  | .flOut => .fl
  | .flWrfc _ => .fl
  | .flWrres _ => .fl
  | .flWrboost _ => .fl
  | .flWrroute _ => .fl
  | .flWrmode _ => .fl
  | .flWrvol _ => .fl
  | .flWrvvol _ _ => .fl
  | .flWrdither _ => .fl
  | .flWrmodel _ => .fl

/-- The hard resets, the only commands a unit accepts in every life state (`60_exceptions.md` R253). -/
def Instr.isConstruct : Instr → Bool
  | .cbConstruct _ => true
  | .wgConstruct => true
  | .egConstruct => true
  | .flConstruct => true
  | _ => false

end Sys2Proof
end

