-- ==== Sys2Proof/WellFormed.lean ====
section
/-! DEFINITION. Which instruction terms stand for a command the spec gives a meaning (`30_encoding.md` R90). -/

namespace Sys2Proof

/-- The types of the sub-fields carry every range of R81 but one: voice index 3 of `FL.WRVVOL` is a reserved
encoding (`30_encoding.md` R90). -/
def Instr.wellFormed : Instr → Bool
  | .flWrvvol k _ => k != 3#2
  | _ => true

/-- A well-formed instruction. -/
abbrev Instr.WellFormed (i : Instr) : Prop := i.wellFormed = true

end Sys2Proof
end

