-- ==== Sys2Proof/Decode.lean ====
section
/-! DEFINITION. The decoder and the encoder of the command word (`30_encoding.md` R80 to R91). -/

namespace Sys2Proof

/-- Why a word names no operation (`30_encoding.md` R90). -/
inductive DecodeError where
  /-- `UNIT` in 4..15. -/
  | reservedUnit
  /-- An `OP` the unit does not have. -/
  | reservedOp
  /-- `FL.WRVVOL` with voice index 3. -/
  | reservedVoice
  deriving DecidableEq, Repr

/-- `cmd[31:24]`, the byte a decoder looks up (`30_encoding.md` R91). -/
def opcodeOf (w : Word) : BitVec 8 := w.extractLsb' 24 8

/-- `cmd[23:0]` (`30_encoding.md` R80). -/
def immOf (w : Word) : Imm := w.extractLsb' 0 24

/-- Format `M4`: `IMM[3:0]` (`30_encoding.md` R81). -/
def immM4 (imm : Imm) : BitVec 4 := imm.extractLsb' 0 4

/-- Format `M3`: `IMM[2:0]`. -/
def immM3 (imm : Imm) : BitVec 3 := imm.extractLsb' 0 3

/-- Format `B`: `IMM[0]`. -/
def immB (imm : Imm) : BitVec 1 := imm.extractLsb' 0 1

/-- Format `V`, voice index: `IMM[17:16]`. -/
def immVk (imm : Imm) : BitVec 2 := imm.extractLsb' 16 2

/-- Format `V`, value: `IMM[15:0]`. -/
def immVval (imm : Imm) : BitVec 16 := imm.extractLsb' 0 16

/-- Format `A`: `a = IMM[15:12]`, `d = IMM[11:8]`, `s = IMM[7:4]`, `r = IMM[3:0]`. -/
def decodeA (imm : Imm) : Instr :=
  .egWradsr (imm.extractLsb' 12 4) (imm.extractLsb' 8 4) (imm.extractLsb' 4 4) (imm.extractLsb' 0 4)

/-- `FL.WRVVOL`, whose voice index 3 is reserved (`30_encoding.md` R90). -/
def decodeV (k : BitVec 2) (val : BitVec 16) : Except DecodeError Instr :=
  if k = 3#2 then .error .reservedVoice else .ok (.flWrvvol k val)

/-- The opcode map (`30_encoding.md` R84), indexed by `cmd[31:24]`, with the sub-fields of R81. -/
def decodeOp (op : Nat) (imm : Imm) : Except DecodeError Instr :=
  match op with
  | 0x00 => .ok (.cbConstruct imm)
  | 0x01 => .ok .cbReset
  | 0x02 => .ok .cbTick
  | 0x10 => .ok .wgConstruct
  | 0x11 => .ok .wgReset
  | 0x12 => .ok (.wgClock imm)
  | 0x13 => .ok .wgOut
  | 0x14 => .ok (.wgWrfreq imm)
  | 0x15 => .ok (.wgWrpw imm)
  | 0x16 => .ok (.wgWrwave (immM4 imm))
  | 0x17 => .ok (.wgWrmodel (immB imm))
  | 0x20 => .ok .egConstruct
  | 0x21 => .ok .egReset
  | 0x22 => .ok (.egClock imm)
  | 0x23 => .ok .egOut
  | 0x24 => .ok (decodeA imm)
  | 0x25 => .ok (.egWrgate (immB imm))
  | 0x30 => .ok .flConstruct
  | 0x31 => .ok .flReset
  | 0x32 => .ok (.flClock imm)
  | 0x33 => .ok .flOut
  | 0x34 => .ok (.flWrfc imm)
  | 0x35 => .ok (.flWrres imm)
  | 0x36 => .ok (.flWrboost imm)
  | 0x37 => .ok (.flWrroute (immM4 imm))
  | 0x38 => .ok (.flWrmode (immM3 imm))
  | 0x39 => .ok (.flWrvol imm)
  | 0x3A => decodeV (immVk imm) (immVval imm)
  | 0x3B => .ok (.flWrdither (immB imm))
  | 0x3C => .ok (.flWrmodel (immB imm))
  | op => if op < 0x40 then .error .reservedOp else .error .reservedUnit

/-- The decoder: total on words, rejecting by name (`30_encoding.md` R91). -/
def decode (w : Word) : Except DecodeError Instr := decodeOp (opcodeOf w).toNat (immOf w)

/-- `cmd[31:24]` of an operation: `UNIT` and `OP` of its row (`30_encoding.md` R84). -/
def opcodeByte : Instr → BitVec 8
  | .cbConstruct _ => 0x00
  | .cbReset => 0x01
  | .cbTick => 0x02
  | .wgConstruct => 0x10
  | .wgReset => 0x11
  | .wgClock _ => 0x12
  | .wgOut => 0x13
  | .wgWrfreq _ => 0x14
  | .wgWrpw _ => 0x15
  | .wgWrwave _ => 0x16
  | .wgWrmodel _ => 0x17
  | .egConstruct => 0x20
  | .egReset => 0x21
  | .egClock _ => 0x22
  | .egOut => 0x23
  | .egWradsr _ _ _ _ => 0x24
  | .egWrgate _ => 0x25
  | .flConstruct => 0x30
  | .flReset => 0x31
  | .flClock _ => 0x32
  | .flOut => 0x33
  | .flWrfc _ => 0x34
  | .flWrres _ => 0x35
  | .flWrboost _ => 0x36
  | .flWrroute _ => 0x37
  | .flWrmode _ => 0x38
  | .flWrvol _ => 0x39
  | .flWrvvol _ _ => 0x3A
  | .flWrdither _ => 0x3B
  | .flWrmodel _ => 0x3C

/-- `cmd[23:0]` of an operation, the ignored bits zero (`30_encoding.md` R81, R89). -/
def encodeImm : Instr → Imm
  | .cbConstruct sr => sr
  | .cbReset => 0
  | .cbTick => 0
  | .wgConstruct => 0
  | .wgReset => 0
  | .wgClock n => n
  | .wgOut => 0
  | .wgWrfreq f => f
  | .wgWrpw p => p
  | .wgWrwave mask => 0#20 ++ mask
  | .wgWrmodel bit => 0#23 ++ bit
  | .egConstruct => 0
  | .egReset => 0
  | .egClock n => n
  | .egOut => 0
  | .egWradsr att dec sus rel => 0#8 ++ (att ++ (dec ++ (sus ++ rel)))
  | .egWrgate bit => 0#23 ++ bit
  | .flConstruct => 0
  | .flReset => 0
  | .flClock n => n
  | .flOut => 0
  | .flWrfc fc => fc
  | .flWrres res => res
  | .flWrboost b => b
  | .flWrroute mask => 0#20 ++ mask
  | .flWrmode mask => 0#21 ++ mask
  | .flWrvol v => v
  | .flWrvvol k val => 0#6 ++ (k ++ val)
  | .flWrdither bit => 0#23 ++ bit
  | .flWrmodel bit => 0#23 ++ bit

/-- The command word of an operation (`30_encoding.md` R80). -/
def encode (i : Instr) : Word := opcodeByte i ++ encodeImm i

/-- A command whose bits are `w`, of which the table gives `nbits`; the bits above are zero. The word is one 32-bit
value, so there is no byte order to choose (`20_memory.md` R64). -/
def tableWord (nbits w : Nat) : Word := BitVec.ofNat 32 (w % 2 ^ nbits)

/-- What the decoder reads from a row of the opcode table. -/
def decodeTableWord (nbits w : Nat) : Option Instr :=
  match decode (tableWord nbits w) with
  | .ok i => some i
  | .error _ => none

end Sys2Proof
end

