-- ==== Sys2Proof/Config.lean ====
section
/-! DEFINITION. The configuration record of an instance (`00_scope.md` R11), what makes it well formed (R12), and the
constants without a body for what no source gives and for the free values. -/

namespace Sys2Proof

/-- The two die revisions that select calibration tables; 0 = ModelA, 1 = ModelB (`10_state.md` R28, R50). -/
inductive ChipModel where
  | modelA | modelB
  deriving DecidableEq, Repr, Inhabited

/-- The four combined-waveform tables of each model (`20_memory.md` R61). -/
inductive Combo where
  | ts | tp | sp | tsp
  deriving DecidableEq, Repr

/-- The configuration of an instance: the record of `00_scope.md` R11, and the two literals that
`92_eei_decisions.md` D45 makes fields beside it (log entry 27). Nothing in it changes while the instance runs and none of
it is state (`10_state.md` R58). `SAMPLE_RATE` is the register `CB.sample_rate`. The tables and `DITHER` are functions of their
index, so that every index a rule forms is in range (`20_memory.md` R62), and the widths give the types of the
parameters that R11 types by a width. -/
structure Config where
  /-- `CLOCK_RATE`, chip-clock cycles per second. -/
  clockRate : Nat
  /-- `ACC_BITS`, the width of the accumulator and the frequency register. -/
  accBits : Nat
  /-- `PW_BITS`, the width of the pulse-width register. -/
  pwBits : Nat
  /-- `WAVE_BITS`, the width of the oscillator's output. -/
  waveBits : Nat
  /-- `LFSR_BITS`, the width of the noise register. -/
  lfsrBits : Nat
  /-- `NOISE_CLOCK_BIT`, the accumulator bit whose 0 to 1 change clocks the LFSR. -/
  noiseClockBit : Fin accBits
  /-- `LFSR_TAPS`, the two bits XORed into bit 0. -/
  lfsrTaps : Fin lfsrBits × Fin lfsrBits
  /-- `LFSR_RESET`. -/
  lfsrReset : BitVec lfsrBits
  /-- `NOISE_OUT_MAP`, the LFSR bits that feed the top eight output bits. -/
  noiseOutMap : Vector (Fin lfsrBits) 8
  /-- `MID_LEVEL`, the output of an empty selection. -/
  midLevel : BitVec waveBits
  /-- `COMB[model][combo][i]`. -/
  comb : ChipModel → Combo → BitVec 12 → BitVec waveBits
  /-- `RATE[r]`, cycles per rate event. -/
  rate : BitVec 4 → Nat
  /-- `SUSTAIN[s]`. -/
  sustain : BitVec 4 → BitVec 8
  /-- `EXP_BP`, envelope value to period, or absent. -/
  expBp : BitVec 8 → Option Nat
  /-- `DELAY_BUG_ON_GATE`. -/
  delayBugOnGate : Bool
  /-- The largest cutoff, and the last index of `W0TAB`: the literal 2047 of D45. -/
  cutoffMax : Nat
  /-- `W0TAB[model][fc]`, read at 0 to `cutoffMax`. -/
  w0tab : ChipModel → Nat → Nat
  /-- `W0_CEIL`. -/
  w0Ceil : Nat
  /-- `Q_BASE`. -/
  qBase : Rat
  /-- `Q_RES_SPAN`. -/
  qResSpan : Rat
  /-- `Q_BOOST_SPAN`. -/
  qBoostSpan : Rat
  /-- `MIXER_DC[model]`. -/
  mixerDc : ChipModel → Int
  /-- The unity voice volume, which is also the largest: the literal 256 of D45. -/
  unityVolume : Nat
  /-- `FILTER_CHUNK`, the most cycles in one filter sub-step. -/
  filterChunk : Nat
  /-- `DITHER(j, k)`, 0..127 by its type. -/
  dither : Nat → Fin 3 → BitVec 7
  /-- `V_BITS`, the width of the filter voltages and of `Vnf`. -/
  vBits : Nat
  /-- `SAT_BITS`, the width the filter output saturates to. -/
  satBits : Nat
  /-- `DEFAULT_MODEL`, `chip_model` after CONSTRUCT. -/
  defaultModel : ChipModel
  /-- `FREQ_HZ_MIN`, lower clamp of `setFrequencyHz`. -/
  freqHzMin : Rat
  /-- `FREQ_HZ_MAX`, upper clamp of `setFrequencyHz`. -/
  freqHzMax : Rat

/-- A well-formed configuration (`00_scope.md` R12). The ranges of `SUSTAIN`, `COMB` and `DITHER` are their types.
The last two fields are R184's `Q >= Q_BASE` (log entry 21). -/
structure Config.WellFormed (c : Config) : Prop where
  clockRate_pos : 0 < c.clockRate
  lfsrReset_ne : c.lfsrReset ≠ 0
  rate_pos : ∀ r, 1 ≤ c.rate r
  expBp_pos : ∀ v p, c.expBp v = some p → 1 ≤ p
  expBp_zero : (c.expBp 0).isSome = true
  expBp_top : (c.expBp 255).isSome = true
  w0tab_mono : ∀ m (i j : Nat), i ≤ j → j ≤ c.cutoffMax → c.w0tab m i ≤ c.w0tab m j
  filterChunk_pos : 1 ≤ c.filterChunk
  filterChunk_le : c.filterChunk ≤ 8
  qBase_pos : 0 < c.qBase
  qResSpan_nonneg : 0 ≤ c.qResSpan
  qBoostSpan_nonneg : 0 ≤ c.qBoostSpan

/-- What the rules ask of the widths, so that every slice, result and operand they form is there: the accumulator has
the bits of a table index (`40_waveform.md` R114), of an output and one more (R110, R111) and of a pulse width (R112);
an output has the eight mapped noise bits (R113); `V_BITS` holds every `Vnf` (`10_state.md` R43); the result of a tick
fits the operand of `CLOCK` (`43_clockbridge.md` R213); an output fits the response port (`30_encoding.md` R88); the
largest value of a register that a setter writes fits its operand (R81); a voice volume has a unity (`42_filter.md` R185;
log entries 10, 19, 25, 27). -/
structure Config.Representable (c : Config) : Prop where
  accBits_ge : 12 ≤ c.accBits
  waveBits_lt_accBits : c.waveBits < c.accBits
  pwBits_le_accBits : c.pwBits ≤ c.accBits
  waveBits_ge : 8 ≤ c.waveBits
  waveBits_lt : c.waveBits < 32
  vBits_ge : 15 ≤ c.vBits
  clockRate_lt : c.clockRate + 1 < 2 ^ 24
  satBits_pos : 1 ≤ c.satBits
  satBits_le : c.satBits ≤ 32
  pwBits_le : c.pwBits ≤ 24
  cutoffMax_lt : c.cutoffMax < 2 ^ 24
  unityVolume_pos : 1 ≤ c.unityVolume
  unityVolume_lt : c.unityVolume < 2 ^ 16

/-- `COMB`: contents in no source (`20_memory.md` R61, R63; log entry 9). -/
opaque Config.openComb : ChipModel → Combo → BitVec 12 → BitVec 12

/-- The increments of `W0TAB[model]`, entry 0 included: contents in no source; a table of non-negative integers that
never falls is the running sum of such increments (`00_scope.md` R12; log entry 9). -/
opaque Config.openW0Step : ChipModel → Nat → Nat

/-- `MIXER_DC`: value in no source (log entry 9). -/
opaque Config.openMixerDc : ChipModel → Int

/-- `DITHER`: algorithm in no source (log entry 9). -/
opaque Config.openDither : Nat → Fin 3 → BitVec 7

/-- `DEFAULT_MODEL`: open (`92_eei_decisions.md` D9; log entry 9). -/
opaque Config.openDefaultModel : ChipModel

/-- The free values `draw(0..4095)` of `40_waveform.md` R116, of the oscillator's width, one per use of the counter
`State.draws` (log entry 7). -/
opaque Config.draw : (waveBits : Nat) → Nat → BitVec waveBits

/-- What `FL.CLOCK` reads on `v1`, `v2`, `v3`, `ext` when the host presents no values: the spec gives none (log
entry 12). -/
opaque Config.undriven : Fin 4 → Sample

/-- The word on a response port for a result that does not fit a signed 32-bit integer: the spec gives none (log entry
26). -/
opaque Config.openResult : Int → Word

/-- The operand the host sends for a number that does not fit its field: the spec gives none (log entries 19, 24, 27). -/
opaque Config.openOperand : Int → Imm

end Sys2Proof
end

