-- ==== Sys2Proof/Machine/Params.lean ====
section
/-! DEFINITION. The configuration the node runs with: the defaults of `00_scope.md` R11, and the open constants of
Config.lean where R11 has no default (log entries 8 and 9). -/

namespace Sys2Proof.Machine

/-- `W0TAB[m][0..n]` from its increments, so that the table never falls (`00_scope.md` R12). -/
def w0Prefix (m : ChipModel) : Nat → Nat
  | 0 => Config.openW0Step m 0
  | n + 1 => w0Prefix m n + Config.openW0Step m (n + 1)

/-- Default `RATE` (`00_scope.md` R11; general knowledge GK6). -/
def defaultRate (r : BitVec 4) : Nat :=
  #v[9, 32, 63, 95, 149, 220, 267, 313, 392, 977, 1954, 3126, 3907, 11720, 19532, 31251][r.toFin]

/-- Default `SUSTAIN[s] = 17*s` (`00_scope.md` R11; general knowledge GK6). -/
def defaultSustain (s : BitVec 4) : BitVec 8 := BitVec.ofNat 8 (17 * s.toNat)

/-- Default `EXP_BP` (`00_scope.md` R11; general knowledge GK6). -/
def defaultExpBp (v : BitVec 8) : Option Nat :=
  match v.toNat with
  | 255 => some 1
  | 93 => some 2
  | 54 => some 4
  | 26 => some 8
  | 14 => some 16
  | 6 => some 30
  | 0 => some 1
  | _ => none

/-- Default `NOISE_OUT_MAP` (`00_scope.md` R11; general knowledge GK3). -/
def defaultNoiseOutMap : Vector (Fin 23) 8 := #v[22, 20, 16, 13, 11, 7, 4, 2]

/-- The configuration the host's interface runs (`00_scope.md` R11's defaults); `execAt` and `stepAt` take any other. -/
def nodeConfig : Config where
  clockRate := 985248
  accBits := 24
  pwBits := 12
  waveBits := 12
  lfsrBits := 23
  noiseClockBit := 19
  lfsrTaps := (22, 17)
  lfsrReset := 0x7FFFF8#23
  noiseOutMap := defaultNoiseOutMap
  midLevel := 2048#12
  comb := Config.openComb
  rate := defaultRate
  sustain := defaultSustain
  expBp := defaultExpBp
  delayBugOnGate := false
  cutoffMax := 2047
  w0tab := w0Prefix
  w0Ceil := 26353
  qBase := 707 / 1000
  qResSpan := 1
  qBoostSpan := 3293 / 1000
  mixerDc := Config.openMixerDc
  unityVolume := 256
  filterChunk := 8
  dither := Config.openDither
  vBits := 32
  satBits := 16
  defaultModel := Config.openDefaultModel
  freqHzMin := 1 / 10
  freqHzMax := 20000

end Sys2Proof.Machine
end

