-- ==== Sys2Proof/Machine/State.lean ====
section
/-! DEFINITION. The state of the machine: one node of each kind, each with a generator and a ClockBridge of its own
(`00_scope.md` R4; log entry 1), the host's command stream, and why a command can stop. -/

namespace Sys2Proof.Machine

/-- `U.life` (`10_state.md` R21). `faulted` carries the `info` that `ConfigFault` records (`60_exceptions.md` R251). -/
inductive Life where
  | unconstructed
  | ready
  | faulted (info : Imm)
  deriving DecidableEq, Repr

/-- ClockBridge (`10_state.md` R53, R54). -/
structure ClockBridge where
  life : Life
  /-- Positive integer below 2^24, set by `CB.CONSTRUCT`. -/
  sampleRate : Nat
  /-- The residue's numerator over `sampleRate`. -/
  resNum : Nat
  deriving DecidableEq, Repr

/-- WaveformGenerator (`10_state.md` R24 to R29). The registers whose widths are parameters of the instance hold
unsigned integers (`00_scope.md` R11, R13): every operation keeps them in their widths (log entry 10). -/
structure WaveformGenerator where
  life : Life
  /-- Unsigned, `ACC_BITS` bits. -/
  accumulator : Nat
  /-- Unsigned, `ACC_BITS` bits. -/
  frequency : Nat
  /-- Unsigned, `PW_BITS` bits. -/
  pulseWidth : Nat
  /-- Bit 0 triangle, bit 1 sawtooth, bit 2 pulse, bit 3 noise. -/
  waveformSelect : BitVec 4
  chipModel : ChipModel
  /-- Unsigned, `LFSR_BITS` bits. -/
  shiftRegister : Nat
  deriving DecidableEq, Repr

/-- `EG.state` (`10_state.md` R30). -/
inductive EnvState where
  | idle | attack | decay | release
  deriving DecidableEq, Repr

/-- EnvelopeGenerator (`10_state.md` R30 to R39). -/
structure EnvelopeGenerator where
  life : Life
  state : EnvState
  holdZero : Bool
  envelopeCounter : BitVec 8
  rateCounter : Nat
  rateCounterPeriod : Nat
  exponentialCounter : Nat
  exponentialCounterPeriod : Nat
  attack : BitVec 4
  decay : BitVec 4
  sustain : BitVec 4
  release : BitVec 4
  gate : Bool
  writeHold : Bool
  deriving DecidableEq, Repr

/-- Filter (`10_state.md` R40 to R52). The voltages and sums are mathematical integers (`42_filter.md` R187); the
range of the voltages is checked at every assignment (R188; log entry 15). -/
structure FilterUnit where
  life : Life
  /-- Unsigned, 0 to the unity volume. -/
  voiceVolume : Vector Nat 3
  ditherEnable : Bool
  vhp : Int
  vbp : Int
  vlp : Int
  vi : Int
  vnf : Int
  /-- Unsigned, 0 to the largest cutoff. -/
  cutoff : Nat
  resonance : BitVec 4
  resonanceBoost : BitVec 8
  /-- Bit 0 `v1`, bit 1 `v2`, bit 2 `v3`, bit 3 `ext`; a set bit takes the filtered path. -/
  routing : BitVec 4
  /-- Bit 0 lowpass, bit 1 bandpass, bit 2 highpass. -/
  mode : BitVec 3
  volume : BitVec 4
  chipModel : ChipModel
  /-- Cached `min(W0TAB[chip_model][cutoff], W0_CEIL)` (R51). -/
  w0Int : Nat
  /-- Cached `floor(1024 / Q)` (R51). -/
  q1024 : Nat
  ditherIndex : Nat
  deriving DecidableEq, Repr

/-- The three nodes of the model, named by their generator (log entry 1). -/
inductive NodeId where
  | wg | eg | fl
  deriving DecidableEq, Repr

/-- One value for each node. -/
structure PerNode (α : Type) where
  wg : α
  eg : α
  fl : α
  deriving DecidableEq, Repr

/-- The value of node `k`. -/
def PerNode.get {α : Type} (p : PerNode α) : NodeId → α
  | .wg => p.wg
  | .eg => p.eg
  | .fl => p.fl

/-- `p` with the value of node `k` replaced. -/
def PerNode.set {α : Type} (p : PerNode α) (k : NodeId) (v : α) : PerNode α where
  wg := if k = .wg then v else p.wg
  eg := if k = .eg then v else p.eg
  fl := if k = .fl then v else p.fl

/-- The four sample input ports of the Filter node (`10_state.md` R20). -/
structure SamplePorts where
  v1 : Sample
  v2 : Sample
  v3 : Sample
  ext : Sample
  deriving DecidableEq, Repr

/-- One command as the host issues it: the node whose command port it goes to, the word, and the values the host
presents on the sample ports for it, if any (read by `FL.CLOCK` alone, `30_encoding.md` R87). -/
structure Command where
  node : NodeId
  word : Word
  ports : Option SamplePorts
  deriving DecidableEq, Repr

/-- Everything the spec gives the machine. -/
structure State where
  /-- The ClockBridge of each node. -/
  cbs : PerNode ClockBridge
  /-- The generator of the WG node. -/
  wg : WaveformGenerator
  /-- The generator of the EG node. -/
  eg : EnvelopeGenerator
  /-- The generator of the FL node. -/
  fl : FilterUnit
  /-- The response port of each node: the last command's result, or none where it has no result (`30_encoding.md`
  R88; log entry 6). -/
  rsps : PerNode (Option Word)
  /-- The values on the sample ports of the FL node for the command being executed: an argument of that command and
  no state of the chip, so nothing once it has ended (`10_state.md` R58; log entry 12). -/
  ports : Option SamplePorts
  /-- The node whose command port carries the command being executed. -/
  sel : NodeId
  /-- The commands the host has still to issue, first one first (`10_state.md` R22; log entry 2). -/
  stream : List Command
  /-- THE MODEL'S OWN: how many free values have been used (`40_waveform.md` R116; log entry 7). -/
  draws : Nat
  deriving DecidableEq, Repr

/-- Why a run stops although the command has a meaning. -/
inductive Fault where
  /-- Raised by `FL.CLOCK` alone, when a filter voltage leaves its `V_BITS`-bit range: the spec gives no value from
  that point on (`42_filter.md` R188, `60_exceptions.md` R254 (d)). Safe: the model stops. -/
  | filterRange
  deriving DecidableEq, Repr

/-- Why a command has no step (`60_exceptions.md` R254 (c)). -/
inductive Refusal where
  /-- An instruction whose meaning is not written. Safe: the model stops. -/
  | notModelled (mnemonic : String)
  /-- Raised when a word is issued whose `UNIT` is 4..15 (`30_encoding.md` R90). Safe: the model stops. -/
  | reservedUnit
  /-- Raised when a word is issued whose `OP` its unit does not have (R90). Safe: the model stops. -/
  | reservedOp
  /-- Raised by `FL.WRVVOL` with voice index 3, in the decoder or in its meaning (R90). Safe: the model stops. -/
  | reservedVoice
  /-- Raised by every operation of a generator the addressed node does not contain (R90). Safe: the model stops. -/
  | unitAbsent
  /-- Raised by every operation but `CONSTRUCT` on a unit not yet constructed (`60_exceptions.md` R253). Safe: the
  model stops. -/
  | unitUnconstructed
  /-- Raised by every operation but `CONSTRUCT` on a faulted ClockBridge (R253). Safe: the model stops. -/
  | unitFaulted
  /-- Raised by `processBlock` (the host-side sequence) on a malformed event list (`44_node_adapter.md` R223). Safe:
  the model stops. -/
  | malformedBlock
  deriving DecidableEq, Repr

/-- What one command or one step answers. -/
abbrev Result := Host.Outcome State Fault Refusal

/-- A ClockBridge at power-on: `Unconstructed` (`10_state.md` R21); the other fields are named by the model (log
entry 3). -/
def ClockBridge.powerOn : ClockBridge where
  life := .unconstructed
  sampleRate := 0
  resNum := 0

/-- WG at power-on: `Unconstructed`; the other fields hold what `WG.CONSTRUCT` leaves (log entry 3). -/
def WaveformGenerator.powerOn (c : Config) : WaveformGenerator where
  life := .unconstructed
  accumulator := 0
  frequency := 0
  pulseWidth := 0
  waveformSelect := 0
  chipModel := c.defaultModel
  shiftRegister := c.lfsrReset.toNat

/-- EG at power-on: `Unconstructed`; the other fields hold what `EG.CONSTRUCT` leaves (log entry 3). -/
def EnvelopeGenerator.powerOn (c : Config) : EnvelopeGenerator where
  life := .unconstructed
  state := .idle
  holdZero := true
  envelopeCounter := 0
  rateCounter := 0
  rateCounterPeriod := c.rate 0
  exponentialCounter := 0
  exponentialCounterPeriod := (c.expBp 0).getD 1
  attack := 0
  decay := 0
  sustain := 0
  release := 0
  gate := false
  writeHold := false

/-- FL at power-on: `Unconstructed`; the other fields hold what `FL.CONSTRUCT` leaves (log entry 3). -/
def FilterUnit.powerOn (c : Config) : FilterUnit where
  life := .unconstructed
  voiceVolume := #v[c.unityVolume, c.unityVolume, c.unityVolume]
  ditherEnable := true
  vhp := 0
  vbp := 0
  vlp := 0
  vi := 0
  vnf := 0
  cutoff := 0
  resonance := 0
  resonanceBoost := 0
  routing := 0
  mode := 0
  volume := 0
  chipModel := c.defaultModel
  w0Int := min (c.w0tab c.defaultModel 0) c.w0Ceil
  q1024 := (1024 / c.qBase).floor.toNat
  ditherIndex := 0

/-- Power-on of an instance with configuration `c` (`70_reset_and_hazards.md` R271): every unit `Unconstructed`, no
command issued, no result. The three nodes are instances of the one configuration (DESIGN CHOICE, log entry 28). -/
def State.resetAt (c : Config) : State where
  cbs := ⟨ClockBridge.powerOn, ClockBridge.powerOn, ClockBridge.powerOn⟩
  wg := WaveformGenerator.powerOn c
  eg := EnvelopeGenerator.powerOn c
  fl := FilterUnit.powerOn c
  rsps := ⟨none, none, none⟩
  ports := none
  sel := .wg
  stream := []
  draws := 0

/-- Power-on at `00_scope.md` R11's defaults. -/
def State.reset : State := State.resetAt nodeConfig

end Sys2Proof.Machine
end

