-- ==== Sys2Proof/Machine/Operands.lean ====
section
/-! DEFINITION. Operand forms and the integer arithmetic of the rules (`00_scope.md` R13, `30_encoding.md` R82). -/

namespace Sys2Proof.Machine

/-- A numeric field wider than its register: `min(field, maximum)`, never truncated (`30_encoding.md` R82). -/
def clampTo (width max : Nat) {n : Nat} (v : BitVec n) : BitVec width := BitVec.ofNat width (min v.toNat max)

/-- The same for a register whose maximum is a parameter (`30_encoding.md` R82). -/
def clampToMax (max : Nat) {n : Nat} (v : BitVec n) : Nat := min v.toNat max

/-- The same for a register whose width is a parameter: its maximum is `2^width - 1` (`30_encoding.md` R82). -/
def clampToBits (width : Nat) {n : Nat} (v : BitVec n) : Nat := clampToMax (2 ^ width - 1) v

/-- A one-bit field as a flag (`30_encoding.md` R81, format `B`). -/
def flagOf (bit : BitVec 1) : Bool := bit == 1#1

/-- A one-bit field as a chip model: 0 = ModelA, 1 = ModelB (`10_state.md` R28, R50). -/
def modelOf (bit : BitVec 1) : ChipModel := if bit = 0#1 then .modelA else .modelB

/-- The voice index of `FL.WRVVOL`; 3 names no voice (`30_encoding.md` R90). -/
def voiceIndex (k : BitVec 2) : Option (Fin 3) := if h : k.toNat < 3 then some ⟨k.toNat, h⟩ else none

/-- `x >>a k = floor(x / 2^k)` on mathematical integers (`00_scope.md` R13). -/
def asr (x : Int) (k : Nat) : Int := x / 2 ^ k

/-- `clamp(x, lo, hi) = min(max(x, lo), hi)` (`00_scope.md` R13). -/
def clampInt (x lo hi : Int) : Int := min (max x lo) hi

/-- `sat_N(x)` (`00_scope.md` R13). -/
def sat (n : Nat) (x : Int) : Int := clampInt x (-2 ^ (n - 1)) (2 ^ (n - 1) - 1)

/-- Whether `x` fits an `n`-bit signed register (`42_filter.md` R188). -/
def fitsSigned (n : Nat) (x : Int) : Bool := decide (-2 ^ (n - 1) ≤ x) && decide (x ≤ 2 ^ (n - 1) - 1)

/-- `clamp` on exact rationals (`00_scope.md` R13, R15). -/
def clampRat (x lo hi : Rat) : Rat := min (max x lo) hi

/-- `round(x) = floor(x + 1/2)` (`00_scope.md` R13). -/
def roundHalfUp (x : Rat) : Int := (x + 1 / 2).floor

end Sys2Proof.Machine
end

