-- ==== Sys2Proof/Machine/Ops.lean ====
section
/-! DEFINITION. The named operations over the nodes: which unit a command reaches, the gate of the life states, results
on the response port, and `ConfigFault`. -/

namespace Sys2Proof.Machine

/-- The generator a node contains (`00_scope.md` R4). -/
def generatorOf : NodeId → UnitId
  | .wg => .wg
  | .eg => .eg
  | .fl => .fl

/-- Whether the addressed node contains the unit: its ClockBridge and its one generator (`30_encoding.md` R80). -/
def State.hasUnit (s : State) (u : UnitId) : Bool := u == .cb || u == generatorOf s.sel

/-- The ClockBridge of the addressed node. -/
def State.cb (s : State) : ClockBridge := s.cbs.get s.sel

/-- Writes the ClockBridge of the addressed node. -/
def State.setCb (s : State) (b : ClockBridge) : State := { s with cbs := s.cbs.set s.sel b }

/-- Writes the generator of the WG node. -/
def State.setWg (s : State) (w : WaveformGenerator) : State := { s with wg := w }

/-- Writes the generator of the EG node. -/
def State.setEg (s : State) (e : EnvelopeGenerator) : State := { s with eg := e }

/-- Writes the generator of the FL node. -/
def State.setFl (s : State) (f : FilterUnit) : State := { s with fl := f }

/-- What a finished command leaves: its result on the response port of the addressed node (`30_encoding.md` R88), and
no value on the sample ports (`10_state.md` R58). -/
def State.answer (s : State) (r : Option Word) : State := { s with rsps := s.rsps.set s.sel r, ports := none }

/-- Uses up one free value (`40_waveform.md` R116). -/
def State.useDraw (s : State) : State := { s with draws := s.draws + 1 }

/-- Puts a command on the command port of node `k`; to the FL node alone it can come with values on the sample ports
(`10_state.md` R20, `30_encoding.md` R87). -/
def State.present (s : State) (k : NodeId) (p : Option SamplePorts) : State :=
  { s with sel := k, ports := if k = .fl then p else none }

/-- The values `FL.CLOCK` reads (`30_encoding.md` R87); free values where the host presents none (log entry 12). -/
def State.portValues (s : State) : SamplePorts :=
  match s.ports with
  | some p => p
  | none => ⟨Config.undriven 0, Config.undriven 1, Config.undriven 2, Config.undriven 3⟩

/-- `U.life` (`10_state.md` R21). -/
def State.life (s : State) : UnitId → Life
  | .cb => s.cb.life
  | .wg => s.wg.life
  | .eg => s.eg.life
  | .fl => s.fl.life

/-- A command to a unit the addressed node does not contain is refused (`30_encoding.md` R90). -/
def requirePresent (u : UnitId) (s : State) (k : Result) : Result :=
  if s.hasUnit u then k else .refused .unitAbsent

/-- The gate of every operation but `CONSTRUCT`: first the unit is in the node, then it is `Ready`
(`60_exceptions.md` R253, R257). -/
def requireReady (u : UnitId) (s : State) (k : Result) : Result :=
  requirePresent u s (match s.life u with
    | .ready => k
    | .unconstructed => .refused .unitUnconstructed
    | .faulted _ => .refused .unitFaulted)

/-- The command ends without a result (`30_encoding.md` R88). -/
def done (s : State) : Result := .next (s.answer none)

/-- A result as the signed 32-bit integer on a response port (`30_encoding.md` R88). For a result that does not fit one,
which takes a `CLOCK_RATE` of 2^31 or more, or outputs wider than the port, the spec gives no word, and the model a
free value (DESIGN CHOICE, log entry 26). -/
def resultWord (v : Int) : Word := if fitsSigned 32 v then BitVec.ofInt 32 v else Config.openResult v

/-- The command ends with `v` on the response port (`30_encoding.md` R88). -/
def doneWith (v : Int) (s : State) : Result := .next (s.answer (some (resultWord v)))

/-- Codes of the two faults (`60_exceptions.md` R251, R254). -/
def configFaultCode : Nat := 1

/-- Code of a fault of the model (`60_exceptions.md` R254 (d)). -/
def faultCode : Fault → Nat
  | .filterRange => 2

/-- `raise ConfigFault(info)` (`60_exceptions.md` R251): the ClockBridge becomes `Faulted`, nothing else of it is
written, and the command ends. There is no handler, no vector and no return (R252, R259): the machine goes on in a
next state, and only another `CB.CONSTRUCT` leaves the fault. -/
def raiseConfigFault (info : Imm) (s : State) : Result := done (s.setCb { s.cb with life := .faulted info })

/-- The refusal of a word that names no operation (`30_encoding.md` R90). -/
def refusalOf : DecodeError → Refusal
  | .reservedUnit => .reservedUnit
  | .reservedOp => .reservedOp
  | .reservedVoice => .reservedVoice

end Sys2Proof.Machine
end

