-- ==== Sys2Proof/Machine/ClockBridge.lean ====
section
/-! DEFINITION. The operations of the ClockBridge (`43_clockbridge.md`). -/

namespace Sys2Proof.Machine

/-- The ClockBridge after `CB.CONSTRUCT sr` with a legal rate (`43_clockbridge.md` R211). -/
def cbConstructed (sr : Imm) : ClockBridge where
  life := .ready
  sampleRate := sr.toNat
  resNum := 0

/-- `CB.CONSTRUCT sr`: legal in every life state; rate 0 raises `ConfigFault` (`43_clockbridge.md` R211). -/
def execCbConstruct (sr : Imm) (s : State) : Result :=
  requirePresent .cb s (if sr = 0#24 then raiseConfigFault sr s else done (s.setCb (cbConstructed sr)))

/-- `CB.RESET`: the residue becomes 0 (`43_clockbridge.md` R212). -/
def execCbReset (s : State) : Result :=
  requireReady .cb s (done (s.setCb { s.cb with resNum := 0 }))

/-- `t` of `CB.TICK`: the residue plus one sample's share, over `sample_rate` (`43_clockbridge.md` R213). -/
def tickSum (c : Config) (b : ClockBridge) : Nat := b.resNum + c.clockRate

/-- `whole`, the cycles of this sample (`43_clockbridge.md` R213). -/
def tickWhole (c : Config) (b : ClockBridge) : Nat := tickSum c b / b.sampleRate

/-- The ClockBridge after one tick (`43_clockbridge.md` R213). -/
def ticked (c : Config) (b : ClockBridge) : ClockBridge := { b with resNum := tickSum c b % b.sampleRate }

/-- `CB.TICK` (`43_clockbridge.md` R213); a result that does not fit the port is log entry 26. -/
def cbTickAt (c : Config) (s : State) : Result :=
  requireReady .cb s (doneWith (tickWhole c s.cb) (s.setCb (ticked c s.cb)))

/-- `CB.TICK` at the default configuration. -/
def execCbTick (s : State) : Result := cbTickAt nodeConfig s

end Sys2Proof.Machine
end

