-- ==== Sys2Proof/Machine/Flags.lean ====
section
/-! DEFINITION. What sets and clears the flags of EG: `gate` edges, `hold_zero`, `write_hold` (`10_state.md` R31, R38,
R39, R55). No other unit has a flag that an operation sets as a side effect. -/

namespace Sys2Proof.Machine

/-- The next cycle would reload the rate counter (`41_envelope.md` R138). -/
def wouldReload (e : EnvelopeGenerator) : Bool := decide (e.rateCounterPeriod ≤ e.rateCounter + 1)

/-- A write that lands on a reload cycle sets `write_hold`; none clears it (`41_envelope.md` R138). -/
def armHold (arming : Bool) (e : EnvelopeGenerator) : EnvelopeGenerator :=
  { e with writeHold := e.writeHold || (arming && wouldReload e) }

/-- `gate` goes 0 to 1 (`41_envelope.md` R137). -/
def risingEdge (gate bit : Bool) : Bool := !gate && bit

/-- `gate` goes 1 to 0 (`41_envelope.md` R137). -/
def fallingEdge (gate bit : Bool) : Bool := gate && !bit

/-- `eg_zero_check()`, at the end of every exponential event that passed the gate (`41_envelope.md` R143). -/
def zeroCheck (e : EnvelopeGenerator) : EnvelopeGenerator :=
  if e.envelopeCounter = 0#8 then
    { e with holdZero := true, state := if e.state = .release then .idle else e.state }
  else e

end Sys2Proof.Machine
end

