-- ==== Sys2Proof/Machine/Envelope.lean ====
section
/-! DEFINITION. The operations of the EnvelopeGenerator (`41_envelope.md`). -/

namespace Sys2Proof.Machine

/-- `EXP_BP[0]`, which a well-formed configuration has (`00_scope.md` R12). -/
def expPeriodAtZero (c : Config) : Nat := (c.expBp 0).getD 1

/-- EG after `EG.CONSTRUCT` (`41_envelope.md` R131). -/
def egConstructed (c : Config) : EnvelopeGenerator where
  life := .ready
  state := .idle
  holdZero := true
  envelopeCounter := 0
  rateCounter := 0
  rateCounterPeriod := c.rate 0
  exponentialCounter := 0
  exponentialCounterPeriod := expPeriodAtZero c
  attack := 0
  decay := 0
  sustain := 0
  release := 0
  gate := false
  writeHold := false

/-- `EG.CONSTRUCT`: legal in every life state (`41_envelope.md` R131). -/
def egConstructAt (c : Config) (s : State) : Result :=
  requirePresent .eg s (done (s.setEg (egConstructed c)))

/-- `EG.CONSTRUCT` at the default configuration. -/
def execEgConstruct (s : State) : Result := egConstructAt nodeConfig s

/-- EG after `EG.RESET`: the ADSR registers are kept (`41_envelope.md` R132). -/
def egWithReset (c : Config) (e : EnvelopeGenerator) : EnvelopeGenerator :=
  { e with
    state := .idle
    holdZero := true
    envelopeCounter := 0
    rateCounter := 0
    rateCounterPeriod := c.rate e.release
    exponentialCounter := 0
    exponentialCounterPeriod := expPeriodAtZero c
    gate := false
    writeHold := false }

/-- `EG.RESET` (`41_envelope.md` R132). -/
def egResetAt (c : Config) (s : State) : Result :=
  requireReady .eg s (done (s.setEg (egWithReset c s.eg)))

/-- `EG.RESET` at the default configuration. -/
def execEgReset (s : State) : Result := egResetAt nodeConfig s

/-- `period_of(state)` (`41_envelope.md` R136). -/
def periodOf (c : Config) (e : EnvelopeGenerator) : EnvState → Nat
  | .attack => c.rate e.attack
  | .decay => c.rate e.decay
  | .release => c.rate e.release
  | .idle => c.rate e.release

/-- `EG.rate_counter_period <- period_of(EG.state)` (`41_envelope.md` R136). -/
def refreshPeriod (c : Config) (e : EnvelopeGenerator) : EnvelopeGenerator :=
  { e with rateCounterPeriod := periodOf c e e.state }

/-- `update_exp_period()` (`41_envelope.md` R145). -/
def updateExpPeriod (c : Config) (e : EnvelopeGenerator) : EnvelopeGenerator :=
  match c.expBp e.envelopeCounter with
  | some p => { e with exponentialCounterPeriod := p }
  | none => e

/-- `envelope_counter + 1` unless it is 255 (`41_envelope.md` R141). -/
def stepUp (c : Config) (e : EnvelopeGenerator) : EnvelopeGenerator :=
  if e.envelopeCounter.toNat < 255 then
    updateExpPeriod c { e with envelopeCounter := e.envelopeCounter + 1 }
  else e

/-- `envelope_counter - 1` unless it is 0, where a decrement is never applied (`41_envelope.md` R142; log entry 11). -/
def stepDown (c : Config) (e : EnvelopeGenerator) : EnvelopeGenerator :=
  if 0 < e.envelopeCounter.toNat then
    updateExpPeriod c { e with envelopeCounter := e.envelopeCounter - 1 }
  else e

/-- The move to Decay in the event that finds the level at 255 (`41_envelope.md` R141). -/
def enterDecayAtTop (c : Config) (e : EnvelopeGenerator) : EnvelopeGenerator :=
  if e.envelopeCounter = 255#8 then { e with state := .decay, rateCounterPeriod := c.rate e.decay } else e

/-- `eg_attack_event()` (`41_envelope.md` R141). -/
def attackEvent (c : Config) (e : EnvelopeGenerator) : EnvelopeGenerator :=
  enterDecayAtTop c (stepUp c { e with exponentialCounter := 0 })

/-- The step of an exponential event that passed the gate (`41_envelope.md` R142): none while `hold_zero`; in Decay
none at the sustain level. -/
def expStep (c : Config) (e : EnvelopeGenerator) : EnvelopeGenerator :=
  if e.holdZero then e
  else if e.state = .decay ∧ e.envelopeCounter = c.sustain e.sustain then e
  else stepDown c e

/-- `eg_exp_event()`, the exponential gate of Decay and Release (`41_envelope.md` R142). -/
def expEvent (c : Config) (e : EnvelopeGenerator) : EnvelopeGenerator :=
  if e.exponentialCounterPeriod ≤ e.exponentialCounter + 1 then
    zeroCheck (expStep c { e with exponentialCounter := 0 })
  else { e with exponentialCounter := e.exponentialCounter + 1 }

/-- `eg_rate_event()` (`41_envelope.md` R140). -/
def rateEvent (c : Config) (e : EnvelopeGenerator) : EnvelopeGenerator :=
  match e.state with
  | .attack => attackEvent c e
  | .decay => expEvent c e
  | .release => expEvent c e
  | .idle => e

/-- `eg_cycle()`, one chip-clock cycle of EG (`41_envelope.md` R139). -/
def egCycle (c : Config) (e : EnvelopeGenerator) : EnvelopeGenerator :=
  if e.writeHold then { e with writeHold := false }
  else if e.rateCounterPeriod ≤ e.rateCounter + 1 then rateEvent c { e with rateCounter := 0 }
  else { e with rateCounter := e.rateCounter + 1 }

/-- `EG.CLOCK n`: `n` single cycles (`41_envelope.md` R133, `30_encoding.md` R86). -/
def egClockAt (c : Config) (n : Imm) (s : State) : Result :=
  requireReady .eg s (done (s.setEg ((egCycle c)^[n.toNat] s.eg)))

/-- `EG.CLOCK n` at the default configuration. -/
def execEgClock (n : Imm) (s : State) : Result := egClockAt nodeConfig n s

/-- `EG.OUT` (`41_envelope.md` R134). -/
def execEgOut (s : State) : Result := requireReady .eg s (doneWith s.eg.envelopeCounter.toNat s)

/-- EG after `EG.WRADSR` (`41_envelope.md` R135): the hold is armed by the values before the write. -/
def egWithAdsr (c : Config) (att dec sus rel : BitVec 4) (e : EnvelopeGenerator) : EnvelopeGenerator :=
  refreshPeriod c { armHold true e with attack := att, decay := dec, sustain := sus, release := rel }

/-- `EG.WRADSR a,d,s,r` (`41_envelope.md` R135). -/
def egWradsrAt (c : Config) (att dec sus rel : BitVec 4) (s : State) : Result :=
  requireReady .eg s (done (s.setEg (egWithAdsr c att dec sus rel s.eg)))

/-- `EG.WRADSR a,d,s,r` at the default configuration. -/
def execEgWradsr (att dec sus rel : BitVec 4) (s : State) : Result := egWradsrAt nodeConfig att dec sus rel s

/-- EG after `EG.WRGATE` (`41_envelope.md` R137): only an edge acts. -/
def egWithGate (c : Config) (bit : Bool) (e : EnvelopeGenerator) : EnvelopeGenerator :=
  if risingEdge e.gate bit then
    refreshPeriod c { armHold c.delayBugOnGate e with state := .attack, holdZero := false, gate := bit }
  else if fallingEdge e.gate bit then
    refreshPeriod c { armHold c.delayBugOnGate e with state := .release, gate := bit }
  else e

/-- `EG.WRGATE bit` (`41_envelope.md` R137). -/
def egWrgateAt (c : Config) (bit : BitVec 1) (s : State) : Result :=
  requireReady .eg s (done (s.setEg (egWithGate c (flagOf bit) s.eg)))

/-- `EG.WRGATE bit` at the default configuration. -/
def execEgWrgate (bit : BitVec 1) (s : State) : Result := egWrgateAt nodeConfig bit s

end Sys2Proof.Machine
end

