-- ==== Sys2Proof/Machine/Filter.lean ====
section
/-! DEFINITION. The operations of the Filter (`42_filter.md`). -/

namespace Sys2Proof.Machine

/-- `Q(res, boost)`, an exact rational (`42_filter.md` R184). -/
def qOf (c : Config) (res : BitVec 4) (boost : BitVec 8) : Rat :=
  c.qBase + c.qResSpan * (res.toNat : Rat) / 15 + c.qBoostSpan * (boost.toNat : Rat) / 255

/-- `floor(1024 / Q)` (`42_filter.md` R184, `10_state.md` R51). -/
def q1024Of (c : Config) (res : BitVec 4) (boost : BitVec 8) : Nat := (1024 / qOf c res boost).floor.toNat

/-- `min(W0TAB[model][cutoff], W0_CEIL)` (`42_filter.md` R175, `10_state.md` R51). -/
def w0IntOf (c : Config) (m : ChipModel) (fc : Nat) : Nat := min (c.w0tab m fc) c.w0Ceil

/-- Recomputes the cached cutoff constant (`10_state.md` R51, `20_memory.md` R74). -/
def refreshW0 (c : Config) (f : FilterUnit) : FilterUnit := { f with w0Int := w0IntOf c f.chipModel f.cutoff }

/-- Recomputes the cached resonance constant (`10_state.md` R51, `20_memory.md` R74). -/
def refreshQ (c : Config) (f : FilterUnit) : FilterUnit :=
  { f with q1024 := q1024Of c f.resonance f.resonanceBoost }

/-- FL after `FL.CONSTRUCT` (`42_filter.md` R171). -/
def flConstructed (c : Config) : FilterUnit where
  life := .ready
  voiceVolume := #v[c.unityVolume, c.unityVolume, c.unityVolume]
  ditherEnable := true
  vhp := 0
  vbp := 0
  vlp := 0
  vi := 0
  vnf := 0
  cutoff := 0
  resonance := 0
  resonanceBoost := 0
  routing := 0
  mode := 0
  volume := 0
  chipModel := c.defaultModel
  w0Int := w0IntOf c c.defaultModel 0
  q1024 := q1024Of c 0 0
  ditherIndex := 0

/-- `FL.CONSTRUCT`: legal in every life state (`42_filter.md` R171). -/
def flConstructAt (c : Config) (s : State) : Result :=
  requirePresent .fl s (done (s.setFl (flConstructed c)))

/-- `FL.CONSTRUCT` at the default configuration. -/
def execFlConstruct (s : State) : Result := flConstructAt nodeConfig s

/-- FL after `FL.RESET` (`42_filter.md` R172). -/
def flWithReset (f : FilterUnit) : FilterUnit :=
  { f with vhp := 0, vbp := 0, vlp := 0, vi := 0, vnf := 0, ditherIndex := 0 }

/-- `FL.RESET` (`42_filter.md` R172). -/
def execFlReset (s : State) : Result := requireReady .fl s (done (s.setFl (flWithReset s.fl)))

/-- The dither of voice `k` in this command (`42_filter.md` R185). -/
def ditherOf (c : Config) (f : FilterUnit) (k : Fin 3) : Int :=
  if f.ditherEnable then ((c.dither f.ditherIndex k).toNat : Int) else 0

/-- `s[k]` of a voice: dither, 20 to 13 bits, the voice's scalar over unity, the `>>a 8` of the rule at 256
(`42_filter.md` R185; log entry 27). -/
def voiceTerm (c : Config) (f : FilterUnit) (k : Fin 3) (v : Sample) : Int :=
  asr (min (v.toInt + ditherOf c f k) 524287) 7 * (f.voiceVolume[k] : Int) / (c.unityVolume : Int)

/-- `s[3]` of the external input: no dither, no scalar (`42_filter.md` R185). -/
def extTerm (v : Sample) : Int := asr v.toInt 7

/-- The sum of the terms whose routing bit equals `path` (`42_filter.md` R185). -/
def routedSum (c : Config) (f : FilterUnit) (p : SamplePorts) (path : Bool) : Int :=
  (if f.routing.getLsbD 0 = path then voiceTerm c f 0 p.v1 else 0)
    + (if f.routing.getLsbD 1 = path then voiceTerm c f 1 p.v2 else 0)
    + (if f.routing.getLsbD 2 = path then voiceTerm c f 2 p.v3 else 0)
    + (if f.routing.getLsbD 3 = path then extTerm p.ext else 0)

/-- `fl_input_stage(v1, v2, v3, ext)` (`42_filter.md` R185). -/
def inputStage (c : Config) (p : SamplePorts) (f : FilterUnit) : FilterUnit :=
  { f with vi := routedSum c f p true, vnf := routedSum c f p false, ditherIndex := f.ditherIndex + 1 }

/-- `w`, the integration factor of a sub-step of `dt` cycles (`42_filter.md` R187). -/
def subW (f : FilterUnit) (dt : Nat) : Int := asr ((f.w0Int : Int) * dt) 6

/-- The new `Vbp` (`42_filter.md` R187). -/
def subVbp (f : FilterUnit) (dt : Nat) : Int := f.vbp - asr (subW f dt * f.vhp) 14

/-- The new `Vlp`, from the old `Vbp` (`42_filter.md` R187). -/
def subVlp (f : FilterUnit) (dt : Nat) : Int := f.vlp - asr (subW f dt * f.vbp) 14

/-- The new `Vhp`, from the new `Vbp` and `Vlp` (`42_filter.md` R187). -/
def subVhp (f : FilterUnit) (dt : Nat) : Int := asr (subVbp f dt * (f.q1024 : Int)) 10 - subVlp f dt - f.vi

/-- `fl_substep(dt)` (`42_filter.md` R187); a voltage outside its register is `FilterRange` (R188). -/
def flSubstep (c : Config) (dt : Nat) (f : FilterUnit) : Except Fault FilterUnit :=
  if fitsSigned c.vBits (subVbp f dt) && fitsSigned c.vBits (subVlp f dt) && fitsSigned c.vBits (subVhp f dt) then
    .ok { f with vbp := subVbp f dt, vlp := subVlp f dt, vhp := subVhp f dt }
  else .error .filterRange

/-- The sub-steps of `n` cycles: full chunks, then the remainder (`42_filter.md` R186). -/
def substepSizes (c : Config) (n : Nat) : List Nat :=
  List.replicate (n / c.filterChunk) c.filterChunk ++ (if n % c.filterChunk = 0 then [] else [n % c.filterChunk])

/-- The sub-steps in order, up to the first fault (`42_filter.md` R173). -/
def flIntegrate (c : Config) : List Nat → FilterUnit → Except Fault FilterUnit
  | [], f => .ok f
  | dt :: dts, f =>
    match flSubstep c dt f with
    | .ok g => flIntegrate c dts g
    | .error e => .error e

/-- FL after `FL.CLOCK n` (`42_filter.md` R173). -/
def flClocked (c : Config) (p : SamplePorts) (n : Nat) (f : FilterUnit) : Except Fault FilterUnit :=
  flIntegrate c (substepSizes c n) (inputStage c p f)

/-- The end of `FL.CLOCK`: the next state, or `FilterRange` (`42_filter.md` R188; log entry 5). -/
def finishFilter (r : Except Fault FilterUnit) (s : State) : Result :=
  match r with
  | .ok f => done (s.setFl f)
  | .error e => .fault e

/-- `FL.CLOCK n`, with the values on the sample ports (`42_filter.md` R173, `30_encoding.md` R87). -/
def flClockAt (c : Config) (n : Imm) (s : State) : Result :=
  requireReady .fl s (finishFilter (flClocked c s.portValues n.toNat s.fl) s)

/-- `FL.CLOCK n` at the default configuration. -/
def execFlClock (n : Imm) (s : State) : Result := flClockAt nodeConfig n s

/-- `Vf`, the sum of the enabled paths (`42_filter.md` R174). -/
def modeSum (f : FilterUnit) : Int :=
  (if f.mode.getLsbD 0 then f.vlp else 0) + (if f.mode.getLsbD 1 then f.vbp else 0)
    + (if f.mode.getLsbD 2 then f.vhp else 0)

/-- The output sample (`42_filter.md` R174). -/
def flOutput (c : Config) (f : FilterUnit) : Int :=
  sat c.satBits ((f.vnf + modeSum f + c.mixerDc f.chipModel) * (f.volume.toNat : Int))

/-- `FL.OUT` (`42_filter.md` R174). -/
def flOutAt (c : Config) (s : State) : Result := requireReady .fl s (doneWith (flOutput c s.fl) s)

/-- `FL.OUT` at the default configuration. -/
def execFlOut (s : State) : Result := flOutAt nodeConfig s

/-- `FL.WRFC fc`: `min(fc, 2047)`, the largest cutoff (`42_filter.md` R175). -/
def flWrfcAt (c : Config) (fc : Imm) (s : State) : Result :=
  requireReady .fl s (done (s.setFl (refreshW0 c { s.fl with cutoff := clampToMax c.cutoffMax fc })))

/-- `FL.WRFC fc` at the default configuration. -/
def execFlWrfc (fc : Imm) (s : State) : Result := flWrfcAt nodeConfig fc s

/-- `FL.WRRES res` (`42_filter.md` R176). -/
def flWrresAt (c : Config) (res : Imm) (s : State) : Result :=
  requireReady .fl s (done (s.setFl (refreshQ c { s.fl with resonance := clampTo 4 15 res })))

/-- `FL.WRRES res` at the default configuration. -/
def execFlWrres (res : Imm) (s : State) : Result := flWrresAt nodeConfig res s

/-- `FL.WRBOOST b` (`42_filter.md` R177). -/
def flWrboostAt (c : Config) (b : Imm) (s : State) : Result :=
  requireReady .fl s (done (s.setFl (refreshQ c { s.fl with resonanceBoost := clampTo 8 255 b })))

/-- `FL.WRBOOST b` at the default configuration. -/
def execFlWrboost (b : Imm) (s : State) : Result := flWrboostAt nodeConfig b s

/-- `FL.WRROUTE mask` (`42_filter.md` R178). -/
def execFlWrroute (mask : BitVec 4) (s : State) : Result :=
  requireReady .fl s (done (s.setFl { s.fl with routing := mask }))

/-- `FL.WRMODE mask` (`42_filter.md` R179). -/
def execFlWrmode (mask : BitVec 3) (s : State) : Result :=
  requireReady .fl s (done (s.setFl { s.fl with mode := mask }))

/-- `FL.WRVOL v` (`42_filter.md` R180). -/
def execFlWrvol (v : Imm) (s : State) : Result :=
  requireReady .fl s (done (s.setFl { s.fl with volume := clampTo 4 15 v }))

/-- `FL.WRVVOL k,val` (`42_filter.md` R181); voice index 3 is refused before the unit is looked at (R90, R257);
`min(val, 256)`, the unity volume. -/
def flWrvvolAt (c : Config) (k : BitVec 2) (val : BitVec 16) (s : State) : Result :=
  match voiceIndex k with
  | some i =>
    requireReady .fl s (done (s.setFl { s.fl with voiceVolume := s.fl.voiceVolume.set i (clampToMax c.unityVolume val) }))
  | none => .refused .reservedVoice

/-- `FL.WRVVOL k,val` at the default configuration. -/
def execFlWrvvol (k : BitVec 2) (val : BitVec 16) (s : State) : Result := flWrvvolAt nodeConfig k val s

/-- `FL.WRDITHER bit` (`42_filter.md` R182). -/
def execFlWrdither (bit : BitVec 1) (s : State) : Result :=
  requireReady .fl s (done (s.setFl { s.fl with ditherEnable := flagOf bit }))

/-- `FL.WRMODEL bit` (`42_filter.md` R183). -/
def flWrmodelAt (c : Config) (bit : BitVec 1) (s : State) : Result :=
  requireReady .fl s (done (s.setFl (refreshW0 c { s.fl with chipModel := modelOf bit })))

/-- `FL.WRMODEL bit` at the default configuration. -/
def execFlWrmodel (bit : BitVec 1) (s : State) : Result := flWrmodelAt nodeConfig bit s

end Sys2Proof.Machine
end

