-- ==== Sys2Proof/Machine/Waveform.lean ====
section
/-! DEFINITION. The operations of the WaveformGenerator (`40_waveform.md`). -/

namespace Sys2Proof.Machine

/-- WG after `WG.CONSTRUCT` (`40_waveform.md` R101). -/
def wgConstructed (c : Config) : WaveformGenerator where
  life := .ready
  accumulator := 0
  frequency := 0
  pulseWidth := 0
  waveformSelect := 0
  chipModel := c.defaultModel
  shiftRegister := c.lfsrReset.toNat

/-- `WG.CONSTRUCT`: legal in every life state (`40_waveform.md` R101). -/
def wgConstructAt (c : Config) (s : State) : Result :=
  requirePresent .wg s (done (s.setWg (wgConstructed c)))

/-- `WG.CONSTRUCT` at the default configuration. -/
def execWgConstruct (s : State) : Result := wgConstructAt nodeConfig s

/-- WG after `WG.RESET` (`40_waveform.md` R102). -/
def wgWithReset (c : Config) (w : WaveformGenerator) : WaveformGenerator :=
  { w with accumulator := 0, shiftRegister := c.lfsrReset.toNat }

/-- `WG.RESET` (`40_waveform.md` R102). -/
def wgResetAt (c : Config) (s : State) : Result :=
  requireReady .wg s (done (s.setWg (wgWithReset c s.wg)))

/-- `WG.RESET` at the default configuration. -/
def execWgReset (s : State) : Result := wgResetAt nodeConfig s

/-- `lfsr_step(sr)` (`40_waveform.md` R104). -/
def lfsrStep (c : Config) (sr : Nat) : Nat :=
  (sr * 2 % 2 ^ c.lfsrBits) ||| (sr.testBit c.lfsrTaps.1 ^^ sr.testBit c.lfsrTaps.2).toNat

/-- One chip-clock cycle of WG (`40_waveform.md` R103). -/
def wgCycle (c : Config) (w : WaveformGenerator) : WaveformGenerator :=
  let acc := (w.accumulator + w.frequency) % 2 ^ c.accBits
  { w with
    accumulator := acc
    shiftRegister :=
      if w.accumulator.testBit c.noiseClockBit = false ∧ acc.testBit c.noiseClockBit = true then
        lfsrStep c w.shiftRegister
      else w.shiftRegister }

/-- `WG.CLOCK n`: `n` single cycles (`40_waveform.md` R103, `30_encoding.md` R86). -/
def wgClockAt (c : Config) (n : Imm) (s : State) : Result :=
  requireReady .wg s (done (s.setWg ((wgCycle c)^[n.toNat] s.wg)))

/-- `WG.CLOCK n` at the default configuration. -/
def execWgClock (n : Imm) (s : State) : Result := wgClockAt nodeConfig n s

/-- The top `k` bits of the accumulator (`acc[23:12]` of the rules is the top 12 of 24; log entry 10). -/
def accTop (c : Config) (k : Nat) (acc : Nat) : BitVec k := BitVec.ofNat k (acc / 2 ^ (c.accBits - k))

/-- `triangle(acc)`, `WAVE_BITS` bits: the bits below the top one, complemented in the upper half (`40_waveform.md`
R110). -/
def triangle (c : Config) (acc : Nat) : BitVec c.waveBits :=
  BitVec.ofNat c.waveBits
    ((if acc.testBit (c.accBits - 1) then 2 ^ c.accBits - 1 - acc else acc) / 2 ^ (c.accBits - 1 - c.waveBits))

/-- `sawtooth(acc)`: the top `WAVE_BITS` bits (`40_waveform.md` R111). -/
def sawtooth (c : Config) (acc : Nat) : BitVec c.waveBits := accTop c c.waveBits acc

/-- `pulse(acc, pw)`: the top `PW_BITS` bits against the pulse width, all ones or 0 (`40_waveform.md` R112). -/
def pulse (c : Config) (acc pw : Nat) : BitVec c.waveBits :=
  if pw ≤ (accTop c c.pwBits acc).toNat then BitVec.allOnes c.waveBits else 0#c.waveBits

/-- A byte with one more bit shifted in at the bottom. -/
def shiftIn (v : BitVec 8) (b : Bool) : BitVec 8 := (v <<< 1) ||| (BitVec.ofBool b).setWidth 8

/-- The eight bits of `sr` that `NOISE_OUT_MAP` names, most significant first (`40_waveform.md` R113). -/
def noiseByte (c : Config) (sr : Nat) : BitVec 8 :=
  c.noiseOutMap.toList.foldl (fun v (b : Fin c.lfsrBits) => shiftIn v (sr.testBit b)) 0

/-- `noise(sr)`: the mapped bits in the top eight of the output (11..4 of 12), zeros below (`40_waveform.md` R113; log
entry 10). -/
def noise (c : Config) (sr : Nat) : BitVec c.waveBits :=
  BitVec.ofNat c.waveBits ((noiseByte c sr).toNat * 2 ^ c.waveBits / 2 ^ 8)

/-- What a selection puts out: a computed value, a table entry, or a free value (`40_waveform.md` R109). -/
inductive WaveOut (bits : Nat) where
  | value (v : BitVec bits)
  | free
  deriving DecidableEq, Repr

/-- The output of WG (`40_waveform.md` R109 to R116), by the bits of `waveform_select`: noise, pulse, sawtooth,
triangle. -/
def wgOutput (c : Config) (w : WaveformGenerator) : WaveOut c.waveBits :=
  match w.waveformSelect.getLsbD 3, w.waveformSelect.getLsbD 2, w.waveformSelect.getLsbD 1,
    w.waveformSelect.getLsbD 0 with
  | false, false, false, false => .value c.midLevel
  | false, false, false, true => .value (triangle c w.accumulator)
  | false, false, true, false => .value (sawtooth c w.accumulator)
  | false, true, false, false => .value (pulse c w.accumulator w.pulseWidth)
  | true, false, false, false => .value (noise c w.shiftRegister)
  | false, false, true, true => .value (c.comb w.chipModel .ts (accTop c 12 w.accumulator))
  | false, true, false, true => .value (c.comb w.chipModel .tp (accTop c 12 w.accumulator))
  | false, true, true, false => .value (c.comb w.chipModel .sp (accTop c 12 w.accumulator))
  | false, true, true, true => .value (c.comb w.chipModel .tsp (accTop c 12 w.accumulator))
  | true, _, _, _ => .free

/-- Puts an output on the response port; a free value uses up one draw (`40_waveform.md` R116; log entry 7). -/
def answerWave {bits : Nat} (o : WaveOut bits) (s : State) : Result :=
  match o with
  | .value v => doneWith v.toNat s
  | .free => doneWith (Config.draw bits s.draws).toNat s.useDraw

/-- `WG.OUT` (`40_waveform.md` R109). -/
def wgOutAt (c : Config) (s : State) : Result := requireReady .wg s (answerWave (wgOutput c s.wg) s)

/-- `WG.OUT` at the default configuration. -/
def execWgOut (s : State) : Result := wgOutAt nodeConfig s

/-- `WG.WRFREQ f`: the field, which a 24-bit register holds as it is (`40_waveform.md` R105, `30_encoding.md` R82). -/
def wgWrfreqAt (c : Config) (f : Imm) (s : State) : Result :=
  requireReady .wg s (done (s.setWg { s.wg with frequency := clampToBits c.accBits f }))

/-- `WG.WRFREQ f` at the default configuration. -/
def execWgWrfreq (f : Imm) (s : State) : Result := wgWrfreqAt nodeConfig f s

/-- `WG.WRPW p`: `min(p, 4095)`, the register's maximum (`40_waveform.md` R106). -/
def wgWrpwAt (c : Config) (p : Imm) (s : State) : Result :=
  requireReady .wg s (done (s.setWg { s.wg with pulseWidth := clampToBits c.pwBits p }))

/-- `WG.WRPW p` at the default configuration. -/
def execWgWrpw (p : Imm) (s : State) : Result := wgWrpwAt nodeConfig p s

/-- `WG.WRWAVE mask` (`40_waveform.md` R107). -/
def execWgWrwave (mask : BitVec 4) (s : State) : Result :=
  requireReady .wg s (done (s.setWg { s.wg with waveformSelect := mask }))

/-- `WG.WRMODEL bit` (`40_waveform.md` R108). -/
def execWgWrmodel (bit : BitVec 1) (s : State) : Result :=
  requireReady .wg s (done (s.setWg { s.wg with chipModel := modelOf bit }))

end Sys2Proof.Machine
end

