-- ==== Sys2Proof/Machine/Configured.lean ====
section
/-! DEFINITION. What each operation does on an instance of any configuration, which the model takes as an argument
(`00_scope.md` R11); Dispatch.lean's exec is the instance at the defaults. -/

namespace Sys2Proof.Machine

/-- The effect of one operation on the addressed node of an instance with configuration `c` (`30_encoding.md` R84), one
for all three nodes (DESIGN CHOICE, log entry 28). A row whose rule reads no parameter has one meaning for every
configuration. -/
def execAt (c : Config) (i : Instr) (s : State) : Result :=
  match i with
  | .cbConstruct sr => execCbConstruct sr s
  | .cbReset => execCbReset s
  | .cbTick => cbTickAt c s
  | .wgConstruct => wgConstructAt c s
  | .wgReset => wgResetAt c s
  | .wgClock n => wgClockAt c n s
  | .wgOut => wgOutAt c s
  | .wgWrfreq f => wgWrfreqAt c f s
  | .wgWrpw p => wgWrpwAt c p s
  | .wgWrwave mask => execWgWrwave mask s
  | .wgWrmodel bit => execWgWrmodel bit s
  | .egConstruct => egConstructAt c s
  | .egReset => egResetAt c s
  | .egClock n => egClockAt c n s
  | .egOut => execEgOut s
  | .egWradsr att dec sus rel => egWradsrAt c att dec sus rel s
  | .egWrgate bit => egWrgateAt c bit s
  | .flConstruct => flConstructAt c s
  | .flReset => execFlReset s
  | .flClock n => flClockAt c n s
  | .flOut => flOutAt c s
  | .flWrfc fc => flWrfcAt c fc s
  | .flWrres res => flWrresAt c res s
  | .flWrboost b => flWrboostAt c b s
  | .flWrroute mask => execFlWrroute mask s
  | .flWrmode mask => execFlWrmode mask s
  | .flWrvol v => execFlWrvol v s
  | .flWrvvol k val => flWrvvolAt c k val s
  | .flWrdither bit => execFlWrdither bit s
  | .flWrmodel bit => flWrmodelAt c bit s

end Sys2Proof.Machine
end

