-- ==== Sys2Proof/Machine/Dispatch.lean ====
section
/-! DEFINITION. What each operation does to the addressed node: one meaning per row of the opcode table. -/

namespace Sys2Proof.Machine

/-- The effect of one operation on the addressed node (`30_encoding.md` R84, `60_exceptions.md` R254). -/
def exec (i : Instr) (s : State) : Host.Outcome State Fault Refusal :=
  match i with
  -- ClockBridge
  | .cbConstruct sr => Sys2Proof.Machine.execCbConstruct sr s
  | .cbReset => Sys2Proof.Machine.execCbReset s
  | .cbTick => Sys2Proof.Machine.execCbTick s
  -- WaveformGenerator
  | .wgConstruct => Sys2Proof.Machine.execWgConstruct s
  | .wgReset => Sys2Proof.Machine.execWgReset s
  | .wgClock n => Sys2Proof.Machine.execWgClock n s
  | .wgOut => Sys2Proof.Machine.execWgOut s
  | .wgWrfreq f => Sys2Proof.Machine.execWgWrfreq f s
  | .wgWrpw p => Sys2Proof.Machine.execWgWrpw p s
  | .wgWrwave mask => Sys2Proof.Machine.execWgWrwave mask s
  | .wgWrmodel bit => Sys2Proof.Machine.execWgWrmodel bit s
  -- EnvelopeGenerator
  | .egConstruct => Sys2Proof.Machine.execEgConstruct s
  | .egReset => Sys2Proof.Machine.execEgReset s
  | .egClock n => Sys2Proof.Machine.execEgClock n s
  | .egOut => Sys2Proof.Machine.execEgOut s
  | .egWradsr att dec sus rel => Sys2Proof.Machine.execEgWradsr att dec sus rel s
  | .egWrgate bit => Sys2Proof.Machine.execEgWrgate bit s
  -- Filter
  | .flConstruct => Sys2Proof.Machine.execFlConstruct s
  | .flReset => Sys2Proof.Machine.execFlReset s
  | .flClock n => Sys2Proof.Machine.execFlClock n s
  | .flOut => Sys2Proof.Machine.execFlOut s
  | .flWrfc fc => Sys2Proof.Machine.execFlWrfc fc s
  | .flWrres res => Sys2Proof.Machine.execFlWrres res s
  | .flWrboost b => Sys2Proof.Machine.execFlWrboost b s
  | .flWrroute mask => Sys2Proof.Machine.execFlWrroute mask s
  | .flWrmode mask => Sys2Proof.Machine.execFlWrmode mask s
  | .flWrvol v => Sys2Proof.Machine.execFlWrvol v s
  | .flWrvvol k val => Sys2Proof.Machine.execFlWrvvol k val s
  | .flWrdither bit => Sys2Proof.Machine.execFlWrdither bit s
  | .flWrmodel bit => Sys2Proof.Machine.execFlWrmodel bit s

end Sys2Proof.Machine
end

