-- ==== Sys2Proof/Machine/Issue.lean ====
section
/-! DEFINITION. Issuing one command word to a node: decode, then execute (`20_memory.md` R70, `60_exceptions.md` R254). -/

namespace Sys2Proof.Machine

/-- One command of the host: a word that names no operation is refused first (`60_exceptions.md` R257), any other
executes on the node it is issued to, with the values presented on that node's sample ports. -/
def issue (c : Command) (s : State) : Result :=
  match decode c.word with
  | .ok i => exec i (s.present c.node c.ports)
  | .error e => .refused (refusalOf e)

/-- The same where the nodes have configuration `c` (`00_scope.md` R11), one for all three (DESIGN CHOICE, log entry 28). -/
def issueAt (c : Config) (m : Command) (s : State) : Result :=
  match decode m.word with
  | .ok i => execAt c i (s.present m.node m.ports)
  | .error e => .refused (refusalOf e)

/-- The node whose port a bare word is put on: the one that contains its `UNIT`; for a ClockBridge or a reserved
word, the node addressed last (log entry 2). -/
def portFor (w : Word) (s : State) : NodeId :=
  match (w.extractLsb' 28 4).toNat with
  | 1 => .wg
  | 2 => .eg
  | 3 => .fl
  | _ => s.sel

/-- The bare word as a command of the host, with 0 presented on the four sample ports (log entry 2). -/
def commandFor (w : Word) (s : State) : Command := ⟨portFor w s, w, some ⟨0, 0, 0, 0⟩⟩

/-- The rate a ClockBridge gets where `bootFor` constructs it: the spec's example rate, and no claim rests on it (log
entry 2). -/
def bootRate : Imm := 48000

/-- What the host must have done before a bare word can execute (`70_reset_and_hazards.md` R273): where the unit of
the word is still `Unconstructed`, its `CONSTRUCT` has been issued. A `CONSTRUCT` or a reserved word needs nothing, and
a unit that is `Ready` or `Faulted` is left as it is (log entry 2). -/
def bootFor (w : Word) (s : State) : State :=
  match decode w with
  | .ok i =>
    if i.isConstruct then s
    else match i.unit with
      | .cb =>
        if (s.cbs.get (portFor w s)).life = .unconstructed then
          { s with cbs := s.cbs.set (portFor w s) (cbConstructed bootRate) }
        else s
      | .wg => if s.wg.life = .unconstructed then s.setWg (wgConstructed nodeConfig) else s
      | .eg => if s.eg.life = .unconstructed then s.setEg (egConstructed nodeConfig) else s
      | .fl => if s.fl.life = .unconstructed then s.setFl (flConstructed nodeConfig) else s
  | .error _ => s

end Sys2Proof.Machine
end

