-- ==== Sys2Proof/Machine/Step.lean ====
section
/-! DEFINITION. One step: the next command of the host's stream (`10_state.md` R22, `20_memory.md` R70). -/

namespace Sys2Proof.Machine

/-- The first command of the stream is issued; a node that receives no command holds its state
(`60_exceptions.md` R265; log entry 13). -/
def step (s : State) : Host.Outcome State Fault Refusal :=
  match s.stream with
  | [] => .next s
  | c :: rest => issue c { s with stream := rest }

/-- The same step where the nodes have configuration `c` (`00_scope.md` R11), one for all three (DESIGN CHOICE, log
entry 28). -/
def stepAt (c : Config) (s : State) : Result :=
  match s.stream with
  | [] => .next s
  | m :: rest => issueAt c m { s with stream := rest }

/-- `s` with the word as the next command of the stream: it stands for the host issuing it, after the `CONSTRUCT` of
the word's unit where that unit is still `Unconstructed` (log entry 2). -/
def State.withFetchWord (s : State) (nbits w : Nat) : State :=
  let b := bootFor (tableWord nbits w) s
  { b with stream := commandFor (tableWord nbits w) s :: s.stream }

end Sys2Proof.Machine
end

