-- ==== Sys2Proof/Machine/NodeAdapter.lean ====
section
/-! DEFINITION. NodeAdapter: the host's pseudo-operations over one node, its setter conversions and its output
normalisations (`44_node_adapter.md`). It holds no state (`00_scope.md` R2). -/

namespace Sys2Proof.Machine

/-- `G.CONSTRUCT` of a node's generator. -/
def constructOf : NodeId → Instr
  | .wg => .wgConstruct
  | .eg => .egConstruct
  | .fl => .flConstruct

/-- `G.RESET` of a node's generator. -/
def resetOf : NodeId → Instr
  | .wg => .wgReset
  | .eg => .egReset
  | .fl => .flReset

/-- `G.CLOCK n` of a node's generator. -/
def clockOf (k : NodeId) (n : Imm) : Instr :=
  match k with
  | .wg => .wgClock n
  | .eg => .egClock n
  | .fl => .flClock n

/-- `G.OUT` of a node's generator. -/
def outOf : NodeId → Instr
  | .wg => .wgOut
  | .eg => .egOut
  | .fl => .flOut

/-- One operation on node `k` of an instance with configuration `c`, with `p` presented on the sample ports. -/
def perform (c : Config) (k : NodeId) (p : Option SamplePorts) (i : Instr) (s : State) : Result :=
  execAt c i (s.present k p)

/-- A second command after a first that answered a next state. -/
def andThen (r : Result) (f : State → Result) : Result :=
  match r with
  | .next s => f s
  | .fault e => .fault e
  | .refused e => .refused e

/-- A sequence of operations on node `k`, in order (`20_memory.md` R70), none of which reads the sample ports. -/
def performAll (c : Config) (k : NodeId) : List Instr → State → Result
  | [], s => .next s
  | i :: is, s => andThen (perform c k none i s) (performAll c k is)

/-- The operand `construct(sampleRate)` sends: 0 for a rate that is not positive, else clamped
(`44_node_adapter.md` R221). -/
def rateOperand (sampleRate : Int) : Imm :=
  BitVec.ofInt 24 (if sampleRate ≤ 0 then 0 else min sampleRate 16777215)

/-- `construct(sampleRate)` (`44_node_adapter.md` R221). -/
def nodeConstruct (k : NodeId) (sampleRate : Int) : List Instr := [.cbConstruct (rateOperand sampleRate), constructOf k]

/-- `reset()` (`44_node_adapter.md` R222). -/
def nodeReset (k : NodeId) : List Instr := [.cbReset, resetOf k]

/-- An event of a block: a sample offset and a command word (`44_node_adapter.md` R223). -/
structure BlockEvent where
  offset : Nat
  word : Word
  deriving DecidableEq, Repr

/-- The one kind of event the spec admits (`44_node_adapter.md` R223). -/
def isGateWord (w : Word) : Bool :=
  match decode w with
  | .ok (.egWrgate _) => true
  | _ => false

/-- Every event is a gate write on an EG node, inside the block (`44_node_adapter.md` R223). -/
def blockWellFormed (k : NodeId) (n : Nat) (events : List BlockEvent) : Bool :=
  events.all (fun e => decide (e.offset < n) && decide (k = .eg) && isGateWord e.word)

/-- What a block answers: the state after it and its output buffer. -/
abbrev BlockResult := Host.Outcome (State × List (Option Word)) Fault Refusal

/-- The events of sample `i`, in list order (`44_node_adapter.md` R225). -/
def issueEvents (c : Config) (k : NodeId) (i : Nat) : List BlockEvent → State → Result
  | [], s => .next s
  | e :: es, s =>
    andThen (if e.offset = i then issueAt c ⟨k, e.word, none⟩ s else .next s) (issueEvents c k i es)

/-- The field the host sends for a number: the number itself where it fits the field; for any other the spec gives
none, and the model a free value (DESIGN CHOICE, log entries 19, 24, 27). -/
def fieldOf (width : Nat) (n : Int) : BitVec width :=
  if 0 ≤ n ∧ n < 2 ^ width then BitVec.ofInt width n else (Config.openOperand n).setWidth width

/-- The operand `IMM` the host sends for a number. -/
def operandOf (n : Int) : Imm := fieldOf 24 n

/-- The operand of `G.CLOCK`: the result of this sample's tick as it stands on the port, which must fit 24 bits
(`43_clockbridge.md` R213). Where it does not, the operand is a free value: by `operandOf` for a result that fits the
port (log entry 19), and because the word on the port is free for one that does not (log entry 26). A tick that executed
always has a result. -/
def tickOperand (k : NodeId) (s : State) : Imm :=
  match s.rsps.get k with
  | some v => operandOf v.toInt
  | none => Config.openOperand 0

/-- One sample of a block: its events, `CB.TICK`, `G.CLOCK n`, `G.OUT` (`44_node_adapter.md` R225). -/
def runSample (c : Config) (k : NodeId) (events : List BlockEvent) (inputs : Nat → SamplePorts) (i : Nat) (s : State) :
    Result :=
  andThen (issueEvents c k i events s) fun s =>
    andThen (perform c k none .cbTick s) fun s =>
      andThen (perform c k (some (inputs i)) (clockOf k (tickOperand k s)) s) fun s =>
        perform c k none (outOf k) s

/-- `m` samples from sample `i` on; the buffer holds each sample's result (`44_node_adapter.md` R225). -/
def runSamples (c : Config) (k : NodeId) (events : List BlockEvent) (inputs : Nat → SamplePorts) :
    Nat → Nat → State → BlockResult
  | 0, _, s => .next (s, [])
  | m + 1, i, s =>
    match runSample c k events inputs i s with
    | .next t =>
      match runSamples c k events inputs m (i + 1) t with
      | .next (u, out) => .next (u, t.rsps.get k :: out)
      | .fault e => .fault e
      | .refused e => .refused e
    | .fault e => .fault e
    | .refused e => .refused e

/-- `processBlock(numSamples, events)` on node `k` of an instance with configuration `c`; `inputs` are the values on the
sample ports of an FL node, sample by sample (`44_node_adapter.md` R225, R226). A malformed event list is refused (R223). -/
def processBlock (c : Config) (k : NodeId) (n : Nat) (events : List BlockEvent) (inputs : Nat → SamplePorts)
    (s : State) : BlockResult :=
  if blockWellFormed k n events then runSamples c k events inputs n 0 s else .refused .malformedBlock

/-- A wider host number clamped to a 20-bit port (`44_node_adapter.md` R226). -/
def sampleOf (x : Int) : Sample := BitVec.ofInt 20 (clampInt x (-524288) 524287)

/-- `setFrequencyHz(hz)`; the 2^24 of the rule is the accumulator's modulus (`44_node_adapter.md` R228). At a
`CLOCK_RATE` so low that the rounded number needs more than 24 bits (20000 and below, at the other defaults) the spec gives no operand, and the model a free value (DESIGN CHOICE,
log entry 24); the default rate is far above. -/
def setFrequencyHz (c : Config) (hz : Rat) : Instr :=
  .wgWrfreq (operandOf (roundHalfUp (clampRat hz c.freqHzMin c.freqHzMax * 2 ^ c.accBits / (c.clockRate : Rat))))

/-- `floor(clamp(f, 0, 1) * max)`, the conversion of every fraction (`44_node_adapter.md` R229, R233 to R235). -/
def fractionOf (max : Nat) (f : Rat) : Imm := operandOf (clampRat f 0 1 * (max : Rat)).floor

/-- `setPulseWidth(f)`; the 4095 of the rule is the register's maximum (`44_node_adapter.md` R229). -/
def setPulseWidth (c : Config) (f : Rat) : Instr := .wgWrpw (fractionOf (2 ^ c.pwBits - 1) f)

/-- `setWaveform(selector)`, the selector as the set it names (`44_node_adapter.md` R230). -/
def setWaveform (triangle sawtooth pulse noise : Bool) : Instr :=
  .wgWrwave (BitVec.ofBool noise ++ (BitVec.ofBool pulse ++ (BitVec.ofBool sawtooth ++ BitVec.ofBool triangle)))

/-- `clamp(x, 0, max)` of a host integer, as a field. -/
def clampedField (width : Nat) (max : Int) (x : Int) : BitVec width := BitVec.ofInt width (clampInt x 0 max)

/-- `setADSR(a, d, s, r)` (`44_node_adapter.md` R231). -/
def setADSR (att dec sus rel : Int) : Instr :=
  .egWradsr (clampedField 4 15 att) (clampedField 4 15 dec) (clampedField 4 15 sus) (clampedField 4 15 rel)

/-- `setGate(b)` (`44_node_adapter.md` R232). -/
def setGate (b : Bool) : Instr := .egWrgate (BitVec.ofBool b)

/-- `setCutoffRegister(n)`; 2047 is the largest cutoff (`44_node_adapter.md` R233). -/
def setCutoffRegister (c : Config) (n : Int) : Instr := .flWrfc (operandOf (clampInt n 0 c.cutoffMax))

/-- `setCutoffNormalized(f)`; 2047 is the largest cutoff (`44_node_adapter.md` R233). -/
def setCutoffNormalized (c : Config) (f : Rat) : Instr := .flWrfc (fractionOf c.cutoffMax f)

/-- `setResonance(f)` (`44_node_adapter.md` R234). -/
def setResonance (f : Rat) : Instr := .flWrres (fractionOf 15 f)

/-- `setResonanceBoost(f)` (`44_node_adapter.md` R235). -/
def setResonanceBoost (f : Rat) : Instr := .flWrboost (fractionOf 255 f)

/-- `setRouting(mask)` (`44_node_adapter.md` R236). -/
def setRouting (mask : Int) : Instr := .flWrroute (BitVec.ofInt 4 (mask % 16))

/-- `setMode(mask)` (`44_node_adapter.md` R236). -/
def setMode (mask : Int) : Instr := .flWrmode (BitVec.ofInt 3 (mask % 8))

/-- `setVolume(v)` (`44_node_adapter.md` R236). -/
def setVolume (v : Int) : Instr := .flWrvol (clampedField 24 15 v)

/-- `setVoiceVolume(k, val)`; 256 is the unity volume (`44_node_adapter.md` R237). -/
def setVoiceVolume (c : Config) (k : Fin 3) (val : Int) : Instr :=
  .flWrvvol (BitVec.ofNat 2 k) (fieldOf 16 (clampInt val 0 c.unityVolume))

/-- `setDither(b)` (`44_node_adapter.md` R237). -/
def setDither (b : Bool) : Instr := .flWrdither (BitVec.ofBool b)

/-- A chip model as the operand bit: 0 for ModelA, 1 for ModelB (`44_node_adapter.md` R237). -/
def modelBit : ChipModel → BitVec 1
  | .modelA => 0#1
  | .modelB => 1#1

/-- `setChipModel(m)` of a WG node (`44_node_adapter.md` R237). -/
def setChipModelWg (m : ChipModel) : Instr := .wgWrmodel (modelBit m)

/-- `setChipModel(m)` of an FL node (`44_node_adapter.md` R237). -/
def setChipModelFl (m : ChipModel) : Instr := .flWrmodel (modelBit m)

/-- Oscillator result to [-1, 1]; the 2048 of the rule is half of the output's range (`44_node_adapter.md` R238; log
entry 10). -/
def normalizeOscillator (c : Config) (v : Int) : Rat := ((v : Rat) - 2 ^ (c.waveBits - 1)) / 2 ^ (c.waveBits - 1)

/-- Envelope result to [0, 1] (`44_node_adapter.md` R238). -/
def normalizeEnvelope (v : Int) : Rat := (v : Rat) / 255

/-- Filter result to [-1, 1]; the 32768 of the rule is half of the output's range (`44_node_adapter.md` R238; log
entry 10). -/
def normalizeFilter (c : Config) (v : Int) : Rat := (v : Rat) / 2 ^ (c.satBits - 1)

end Sys2Proof.Machine
end

