-- ==== Sys2Proof/Safety.lean ====
section
/-! DEFINITION. What claims say of states and runs: which units a command can execute on, the invariants of the spec's
registers (`10_state.md` R57), and good runs (`70_reset_and_hazards.md` R296). -/

namespace Sys2Proof.Machine

/-- The addressed node contains the unit and the unit is `Ready` (`60_exceptions.md` R253). -/
def State.Accepts (s : State) (u : UnitId) : Prop := s.hasUnit u = true ∧ s.life u = .ready

/-- A ClockBridge keeps its residue below its rate, and its rate in its register (`10_state.md` R53, R54, R57 (a));
the recorded `info` of a fault is 0 (`60_exceptions.md` R251). -/
def ClockBridge.Inv (b : ClockBridge) : Prop :=
  (b.life = .ready → b.resNum < b.sampleRate ∧ b.sampleRate < 2 ^ 24) ∧ (∀ info, b.life = .faulted info → info = 0#24)

/-- A generator is never `Faulted` (`60_exceptions.md` R253). -/
def Life.NotFaulted (l : Life) : Prop := ∀ info, l ≠ .faulted info

/-- The registers fit their widths (`10_state.md` R24, R25, R26, R29), and the noise register is never 0 (R57 (h)). -/
structure WaveformGenerator.Inv (c : Config) (w : WaveformGenerator) : Prop where
  life : w.life.NotFaulted
  accumulator : w.accumulator < 2 ^ c.accBits
  frequency : w.frequency < 2 ^ c.accBits
  pulseWidth : w.pulseWidth < 2 ^ c.pwBits
  shiftRegister : w.shiftRegister < 2 ^ c.lfsrBits
  /-- R57 (h). -/
  noise : w.shiftRegister ≠ 0

/-- The facts of `10_state.md` R57 (b) to (f), and the ranges of R33, R35 and R36. -/
structure EnvelopeGenerator.Inv (c : Config) (e : EnvelopeGenerator) : Prop where
  life : e.life.NotFaulted
  /-- R57 (b). -/
  idle : e.state = .idle → e.envelopeCounter = 0#8 ∧ e.holdZero = true
  /-- R57 (c); Release is its exception. -/
  zero_held : e.state = .decay → e.envelopeCounter = 0#8 → e.holdZero = true
  /-- `hold_zero` is set only at level 0 (R31). -/
  held_zero : e.holdZero = true → e.envelopeCounter = 0#8
  /-- R57 (d). -/
  attack : e.state = .attack → e.holdZero = false
  /-- R57 (e). -/
  gate : e.gate = true ↔ e.state = .attack ∨ e.state = .decay
  /-- R57 (f), R34. -/
  period : e.rateCounterPeriod = periodOf c e e.state
  /-- R33. -/
  rateCounter : ∃ r, e.rateCounter < c.rate r
  /-- R36. -/
  expPeriod : ∃ v, c.expBp v = some e.exponentialCounterPeriod
  /-- R35. -/
  expCounter : e.exponentialCounter < e.exponentialCounterPeriod

/-- The caches (`10_state.md` R51, R57 (g)), the registers' ranges (R40, R42, R43). -/
structure FilterUnit.Inv (c : Config) (f : FilterUnit) : Prop where
  life : f.life.NotFaulted
  w0 : f.w0Int = w0IntOf c f.chipModel f.cutoff
  q : f.q1024 = q1024Of c f.resonance f.resonanceBoost
  volumes : ∀ k : Fin 3, f.voiceVolume[k] ≤ c.unityVolume
  /-- R44. -/
  cutoff : f.cutoff ≤ c.cutoffMax
  vhp : fitsSigned c.vBits f.vhp = true
  vbp : fitsSigned c.vBits f.vbp = true
  vlp : fitsSigned c.vBits f.vlp = true
  vi : fitsSigned 15 f.vi = true
  vnf : fitsSigned 15 f.vnf = true
  /-- `Vnf` fits `V_BITS` too (`00_scope.md` R11). -/
  vnf_vBits : fitsSigned c.vBits f.vnf = true

/-- The invariant of an instance with configuration `c`, over every node, between commands (`10_state.md` R57, R58). -/
structure State.Inv (c : Config) (s : State) : Prop where
  cbs : ∀ k, (s.cbs.get k).Inv
  wg : s.wg.Inv c
  eg : s.eg.Inv c
  fl : s.fl.Inv c
  /-- No value on a sample port survives a command (`10_state.md` R58). -/
  ports : s.ports = none

/-- The result on a response port, as the signed 32-bit integer it is (`30_encoding.md` R88); a port with no result
counts as 0, which no claim rests on. -/
def resultOf (r : Option Word) : Int :=
  match r with
  | some v => v.toInt
  | none => 0

/-- `m` ticks of the addressed node's ClockBridge on an instance with configuration `c`, with the sum of their results (`43_clockbridge.md` R214). -/
def dispense (c : Config) : Nat → State → Host.Outcome (State × Int) Fault Refusal
  | 0, s => .next (s, 0)
  | m + 1, s =>
    match dispense c m s with
    | .next (t, sum) =>
      match execAt c .cbTick t with
      | .next u => .next (u, sum + resultOf (u.rsps.get u.sel))
      | .fault e => .fault e
      | .refused e => .refused e
    | .fault e => .fault e
    | .refused e => .refused e

/-- Two states agree on node `k`: its ClockBridge, its generator and its response port (`00_scope.md` R4). -/
def SameNode (k : NodeId) (s t : State) : Prop :=
  s.cbs.get k = t.cbs.get k ∧ s.rsps.get k = t.rsps.get k ∧
    match k with
    | .wg => s.wg = t.wg
    | .eg => s.eg = t.eg
    | .fl => s.fl = t.fl

/-- The cycles among the first `n` that clock the noise register, from accumulator `acc` at frequency `f`
(`40_waveform.md` R103): before the cycle the bit reads 0, after it 1. The bit lies below the modulus, so the sums need
no reduction. -/
def noiseClocks (c : Config) (acc f : Nat) : Nat → Nat
  | 0 => 0
  | n + 1 =>
    noiseClocks c acc f n +
      (if (acc + n * f).testBit c.noiseClockBit = false ∧ (acc + (n + 1) * f).testBit c.noiseClockBit = true then 1
        else 0)

/-- The commands of a list on an instance with configuration `c`, in order, up to the first that is refused or faults
(`70_reset_and_hazards.md` R296). -/
def runCommands (c : Config) : List Command → State → Result
  | [], s => .next s
  | m :: ms, s => andThen (issueAt c m s) (runCommands c ms)

/-- Whether a word is a `CONSTRUCT`. -/
def isConstructWord (w : Word) : Bool :=
  match decode w with
  | .ok i => i.isConstruct
  | .error _ => false

/-- Whether a word raises `ConfigFault` when it executes: `CB.CONSTRUCT 0` (`60_exceptions.md` R251). -/
def raisesConfigFault (w : Word) : Bool := decide (decode w = .ok (.cbConstruct 0))

/-- A good run on an instance with configuration `c`, as `70_reset_and_hazards.md` R296 reads it for each node: no
command refused, no `FilterRange`, and, once a `ConfigFault` was raised on a node (`raised`), no later command to it but
`CONSTRUCT`, repaired or not (log entry 18). -/
def goodRunAfter (c : Config) (raised : PerNode Bool) : List Command → State → Bool
  | [], _ => true
  | m :: ms, s =>
    (!raised.get m.node || isConstructWord m.word) &&
      match issueAt c m s with
      | .next t => goodRunAfter c (raised.set m.node (raised.get m.node || raisesConfigFault m.word)) ms t
      | _ => false

/-- A good run of the commands from `s`, before which no `ConfigFault` was raised. -/
def goodRun (c : Config) (ms : List Command) (s : State) : Bool := goodRunAfter c ⟨false, false, false⟩ ms s

end Sys2Proof.Machine
end

