-- ==== Sys2Proof/Certificates/Slice0/Obligations.lean ====
section
/-! DEFINITION. The statements for the provers. A statement about exec has as hypothesis that the addressed node
accepts the unit (`State.Accepts`: the node contains it and it is `Ready`); the next state is written out whole, so
that it is its own frame. -/

open Sys2Proof Sys2Proof.Machine

/-! ## Encoding and decoding -/

/-- R80, R81, R84: every well-formed instruction is read back from its own word, each operand at every value. -/
def Obligations.EncodedInstructionIsReadBack : Prop :=
  ∀ i : Instr, i.WellFormed → decode (encode i) = .ok i

/-- R84, R92 and section 6.1 of the test vectors: words the spec writes out. -/
def Obligations.SpecWordsDecodeAsWritten : Prop :=
  decode 0x0000BB80#32 = .ok (.cbConstruct 48000#24) ∧ decode 0x02ABCDEF#32 = .ok .cbTick ∧
  decode 0x12000014#32 = .ok (.wgClock 20#24) ∧ decode 0x14001D45#32 = .ok (.wgWrfreq 7493#24) ∧
  decode 0x16FFFFF2#32 = .ok (.wgWrwave 2#4) ∧ decode 0x240000A1#32 = .ok (.egWradsr 0 0 10 1) ∧
  decode 0x25000003#32 = .ok (.egWrgate 1#1) ∧ decode 0x32000015#32 = .ok (.flClock 21#24) ∧
  decode 0x3A010080#32 = .ok (.flWrvvol 1#2 128#16) ∧ decode 0x3A030000#32 = .error .reservedVoice ∧
  decode 0x3D000000#32 = .error .reservedOp ∧ decode 0x40000000#32 = .error .reservedUnit

/-- R91: whatever decodes is well formed, stands in the row its top byte names, and is read back from its own word. -/
def Obligations.DecodedInstructionsAreWellFormed : Prop :=
  ∀ (w : Word) (i : Instr), decode w = .ok i →
    i.WellFormed ∧ opcodeByte i = w.extractLsb' 24 8 ∧ decode (encode i) = .ok i

/-- R89: two words that agree in `cmd[31:24]` and in the operand bits their format names decode alike, whatever the
ignored bits hold: format N names no operand bit, M4 bits 3:0, M3 bits 2:0, B bit 0, A bits 15:0, V bits 17:0. -/
def Obligations.IgnoredBitsDoNotAffectDecoding : Prop :=
  ∀ w v : Word, w.extractLsb' 24 8 = v.extractLsb' 24 8 →
    let op := (w.extractLsb' 24 8).toNat
    (op ∈ [0x01, 0x02, 0x10, 0x11, 0x13, 0x20, 0x21, 0x23, 0x30, 0x31, 0x33] → decode w = decode v) ∧
    (op ∈ [0x16, 0x37] → w.extractLsb' 0 4 = v.extractLsb' 0 4 → decode w = decode v) ∧
    (op ∈ [0x38] → w.extractLsb' 0 3 = v.extractLsb' 0 3 → decode w = decode v) ∧
    (op ∈ [0x17, 0x25, 0x3B, 0x3C] → w.extractLsb' 0 1 = v.extractLsb' 0 1 → decode w = decode v) ∧
    (op ∈ [0x24] → w.extractLsb' 0 16 = v.extractLsb' 0 16 → decode w = decode v) ∧
    (op ∈ [0x3A] → w.extractLsb' 0 18 = v.extractLsb' 0 18 → decode w = decode v)

/-! ## A step -/

/-- R22, R70, R87, R265: a step takes the first command of the stream, puts it on its node's port (with the sample
ports, for an FL node) and runs exactly the instruction its word decodes to; with no command the state is held. That
the stream and the addressed node stand in the state is the model's choice (log entries 1, 2, 13). -/
def Obligations.StepRunsTheDecodedInstruction : Prop :=
  (∀ (s : State) (c : Command) (rest : List Command) (i : Instr), s.stream = c :: rest → decode c.word = .ok i →
    step s = exec i { s with
      stream := rest, sel := c.node, ports := if c.node = .fl then c.ports else none }) ∧
  (∀ s : State, s.stream = [] → step s = .next s)

/-- R90: the five kinds of reserved encoding are refused, in every state, with the name of their kind. -/
def Obligations.ReservedWordsAreRefused : Prop :=
  ∀ (s : State) (c : Command) (rest : List Command), s.stream = c :: rest →
    let unit := (c.word.extractLsb' 28 4).toNat
    let op := (c.word.extractLsb' 24 4).toNat
    (4 ≤ unit → step s = .refused .reservedUnit) ∧
    ((unit = 0 ∧ 3 ≤ op) ∨ (unit = 1 ∧ 8 ≤ op) ∨ (unit = 2 ∧ 6 ≤ op) ∨ (unit = 3 ∧ 13 ≤ op) →
      step s = .refused .reservedOp) ∧
    (unit = 3 ∧ op = 10 ∧ c.word.extractLsb' 16 2 = 3#2 → step s = .refused .reservedVoice) ∧
    (∀ i, decode c.word = .ok i → i.unit ≠ .cb → i.unit ≠ generatorOf c.node → step s = .refused .unitAbsent)

/-- R254: a step answers a next state, or the model fault `FilterRange` and then only for `FL.CLOCK`, or refuses a
reserved word, an absent unit or a unit that is not `Ready`. That `FilterRange` ends a run is the model's reading (log
entry 5). -/
def Obligations.EveryStepHasOneOfTheSpecsOutcomes : Prop :=
  ∀ s : State, (∃ t, step s = .next t) ∨
    ∃ c rest, s.stream = c :: rest ∧
      ((step s = .fault .filterRange ∧ ∃ n, decode c.word = .ok (.flClock n)) ∨
        ∃ r, step s = .refused r ∧
          r ∈ [Refusal.reservedUnit, .reservedOp, .reservedVoice, .unitAbsent, .unitUnconstructed, .unitFaulted])

/-- R253: every operation but `CONSTRUCT` on a unit of the node that is `Unconstructed` or `Faulted` is refused; and
no command makes a generator `Faulted`. -/
def Obligations.UnreadyUnitsRefuseAllButConstruct : Prop :=
  (∀ (i : Instr) (s : State), i.WellFormed → i.isConstruct = false → s.hasUnit i.unit = true →
    (s.life i.unit = .unconstructed → exec i s = .refused .unitUnconstructed) ∧
    (∀ info, s.life i.unit = .faulted info → exec i s = .refused .unitFaulted)) ∧
  (∀ (i : Instr) (s t : State), exec i s = .next t →
    s.wg.life.NotFaulted ∧ s.eg.life.NotFaulted ∧ s.fl.life.NotFaulted →
    t.wg.life.NotFaulted ∧ t.eg.life.NotFaulted ∧ t.fl.life.NotFaulted)

/-! ## Power-on, lifecycle, ClockBridge -/

/-- R21, R271: at power-on every unit is `Unconstructed` and, on every node, every well-formed command but
`CONSTRUCT` is refused. -/
def Obligations.PowerOnAcceptsOnlyConstruct : Prop :=
  (∀ k, (State.reset.cbs.get k).life = .unconstructed) ∧ State.reset.wg.life = .unconstructed ∧
  State.reset.eg.life = .unconstructed ∧ State.reset.fl.life = .unconstructed ∧
  ∀ (i : Instr) (k : NodeId) (p : Option SamplePorts), i.WellFormed → i.isConstruct = false →
    exec i (State.reset.present k p) = .refused .unitUnconstructed ∨
    exec i (State.reset.present k p) = .refused .unitAbsent

/-- R270: a hard reset gives every field of its unit a value that depends on nothing the unit held before. -/
def Obligations.ConstructForgetsThePriorUnit : Prop :=
  (∀ (s : State) (w : WaveformGenerator), exec .wgConstruct { s with wg := w } = exec .wgConstruct s) ∧
  (∀ (s : State) (e : EnvelopeGenerator), exec .egConstruct { s with eg := e } = exec .egConstruct s) ∧
  (∀ (s : State) (f : FilterUnit), exec .flConstruct { s with fl := f } = exec .flConstruct s) ∧
  (∀ (s : State) (b : ClockBridge) (sr : Imm), sr ≠ 0 →
    exec (.cbConstruct sr) { s with cbs := s.cbs.set s.sel b } = exec (.cbConstruct sr) s)

/-- R211: in every life state a positive rate constructs the addressed node's ClockBridge. -/
def Obligations.BridgeConstructSetsRateAndResidue : Prop :=
  ∀ (sr : Imm) (s : State), sr ≠ 0 → exec (.cbConstruct sr) s = .next { s with
    cbs := s.cbs.set s.sel { life := .ready, sampleRate := sr.toNat, resNum := 0 }
    ports := none, rsps := s.rsps.set s.sel none }

/-- R251, R252: rate 0 makes the ClockBridge `Faulted` and writes nothing else of it; then `CB.TICK` and `CB.RESET`
are refused, another rate 0 faults again, and a positive rate makes it `Ready`. That the fault is a next state and
that no result stands on the port after it are the model's readings (log entries 4, 6). -/
def Obligations.ZeroRateFaultsUntilReconstructed : Prop :=
  ∀ s : State, ∃ t, exec (.cbConstruct 0) s = .next t ∧
    t = { s with
      cbs := s.cbs.set s.sel { s.cbs.get s.sel with life := .faulted 0 }, ports := none, rsps := s.rsps.set s.sel none } ∧
    exec .cbTick t = .refused .unitFaulted ∧ exec .cbReset t = .refused .unitFaulted ∧
    exec (.cbConstruct 0) t = .next t ∧
    ∀ sr : Imm, sr ≠ 0 → ∃ u, exec (.cbConstruct sr) t = .next u ∧ (u.cbs.get s.sel).life = .ready

/-- R212: the residue becomes 0 and the rate is kept. -/
def Obligations.BridgeResetClearsTheResidue : Prop :=
  ∀ s : State, s.Accepts .cb → exec .cbReset s = .next { s with
    cbs := s.cbs.set s.sel { s.cbs.get s.sel with resNum := 0 }, ports := none, rsps := s.rsps.set s.sel none }

/-- R213: with a positive rate the residue becomes the remainder and the result is the floor quotient, as the word it
is wherever it fits a signed 32-bit integer (where it does not, which takes a residue no run reaches, the word is free:
log entry 26); the result is `floor(CLOCK_RATE / sample_rate)` or one more, and fits 24 bits, when the residue is below
the rate. 985248 is the default `CLOCK_RATE` (log entry 8). -/
def Obligations.TickDividesExactly : Prop :=
  ∀ s : State, s.Accepts .cb → 0 < (s.cbs.get s.sel).sampleRate →
    let b := s.cbs.get s.sel
    let whole := (b.resNum + 985248) / b.sampleRate
    (∃ r : Word, exec .cbTick s = .next { s with
        cbs := s.cbs.set s.sel { b with resNum := (b.resNum + 985248) % b.sampleRate }
        ports := none, rsps := s.rsps.set s.sel (some r) } ∧
      (whole < 2 ^ 31 → r = BitVec.ofNat 32 whole)) ∧
    (b.resNum < b.sampleRate →
      (whole = 985248 / b.sampleRate ∨ whole = 985248 / b.sampleRate + 1) ∧ whole < 2 ^ 24)

/-- R214: from residue 0, `m` ticks execute, dispense `floor(m * CLOCK_RATE / sample_rate)` cycles in all, leave the
residue `(m * CLOCK_RATE) mod sample_rate`, and change nothing but that node's residue and response port and, as every
command does, the sample ports' values. 985248 is the default `CLOCK_RATE` (log entry 8); the second clause says it of
every instance whose results fit the port (log entry 26). -/
def Obligations.TicksNeverDrift : Prop :=
  ∀ (s : State) (m : Nat), s.Accepts .cb → (s.cbs.get s.sel).resNum = 0 → 0 < (s.cbs.get s.sel).sampleRate →
    let sr := (s.cbs.get s.sel).sampleRate
    let after (residue : Nat) (r : Option Word) : State := { s with
      cbs := s.cbs.set s.sel { s.cbs.get s.sel with resNum := residue }
      ports := if m = 0 then s.ports else none, rsps := s.rsps.set s.sel r }
    (∃ r, dispense nodeConfig m s = .next (after (m * 985248 % sr) r, ((m * 985248 / sr : Nat) : Int))) ∧
    (∀ c : Config, c.clockRate < 2 ^ 31 →
      ∃ r, dispense c m s = .next (after (m * c.clockRate % sr) r, ((m * c.clockRate / sr : Nat) : Int)))

/-! ## WaveformGenerator -/

/-- R101, with the model's reading of R11's defaults (log entry 8). `DEFAULT_MODEL` is open (log entry 9). -/
def Obligations.WaveConstructInitializes : Prop :=
  ∀ s : State, s.sel = .wg → exec .wgConstruct s = .next { s with
    wg := {
      life := .ready, accumulator := 0, frequency := 0, pulseWidth := 0, waveformSelect := 0
      chipModel := Config.openDefaultModel, shiftRegister := 0x7FFFF8 }
    ports := none, rsps := s.rsps.set .wg none }

/-- R102, R56: the soft reset clears the accumulator, loads `LFSR_RESET` and keeps every register target. The number
is the default `LFSR_RESET` (log entry 8). -/
def Obligations.WaveResetKeepsTargets : Prop :=
  ∀ s : State, s.Accepts .wg → exec .wgReset s = .next { s with
    wg := { s.wg with accumulator := 0, shiftRegister := 0x7FFFF8 }, ports := none, rsps := s.rsps.set .wg none }

/-- R103: `WG.CLOCK n` leaves `(initial + frequency * n) mod 2^24` in the accumulator and steps the noise register
once for each cycle in which bit 19 goes from 0 to 1; nothing else of WG changes. Bit 19 and the taps are defaults
(log entry 8). The second clause says it of every instance, whatever its widths (log entry 10). The premise is the
register's range, an invariant (EveryStepKeepsTheInvariant). -/
def Obligations.WaveClockRunsCycleByCycle : Prop :=
  ∀ (n : Imm) (s : State), s.Accepts .wg →
    let after (c : Config) (acc : Nat) : State := { s with
      wg := { s.wg with
        accumulator := acc
        shiftRegister := (lfsrStep c)^[noiseClocks c s.wg.accumulator s.wg.frequency n.toNat] s.wg.shiftRegister }
      ports := none, rsps := s.rsps.set .wg none }
    (s.wg.accumulator < 2 ^ 24 → exec (.wgClock n) s =
      .next (after nodeConfig ((s.wg.accumulator + s.wg.frequency * n.toNat) % 2 ^ 24))) ∧
    (∀ c : Config, s.wg.accumulator < 2 ^ c.accBits → execAt c (.wgClock n) s =
      .next (after c ((s.wg.accumulator + s.wg.frequency * n.toNat) % 2 ^ c.accBits)))

/-- R104: shift left, bit 22 XOR bit 17 into bit 0; the step is a bijection on 23-bit values that fixes 0, so a register
that is not 0 stays so. The taps and the reset value are defaults (log entry 8). The last clause is the step of every
instance, on its own width and taps (log entry 10). -/
def Obligations.NoiseStepIsABijection : Prop :=
  (∀ sr : Nat, (∀ j : Nat, 0 < j → j < 23 → (lfsrStep nodeConfig sr).testBit j = sr.testBit (j - 1)) ∧
    (lfsrStep nodeConfig sr).testBit 0 = (sr.testBit 22 ^^ sr.testBit 17)) ∧
  Set.BijOn (lfsrStep nodeConfig) (Set.Iio (2 ^ 23)) (Set.Iio (2 ^ 23)) ∧ lfsrStep nodeConfig 0 = 0 ∧
  (∀ sr : Nat, sr < 2 ^ 23 → sr ≠ 0 → lfsrStep nodeConfig sr ≠ 0) ∧
  lfsrStep nodeConfig 0x7FFFF8 = 0x7FFFF0 ∧ lfsrStep nodeConfig 0x7FFFF0 = 0x7FFFE0 ∧
  (∀ (c : Config) (sr : Nat), lfsrStep c sr < 2 ^ c.lfsrBits ∧
    (∀ j : Nat, 0 < j → j < c.lfsrBits → (lfsrStep c sr).testBit j = sr.testBit (j - 1)) ∧
    (lfsrStep c sr).testBit 0 = (sr.testBit c.lfsrTaps.1 ^^ sr.testBit c.lfsrTaps.2))

/-- R105 to R108, R82: each write stores its operand (the pulse width clamped to 4095) and touches no other register, and
a word of its row gives it the operand bits the row's format names, whatever the other bits hold. On an instance of any
widths the operand of a numeric write is clamped to its register's maximum (log entry 10). -/
def Obligations.WaveWritesStoreTheirOperand : Prop :=
  (∀ s : State, s.Accepts .wg →
    (∀ f : Imm, exec (.wgWrfreq f) s = .next { s with
      wg := { s.wg with frequency := f.toNat }, ports := none, rsps := s.rsps.set .wg none }) ∧
    (∀ p : Imm, exec (.wgWrpw p) s = .next { s with
      wg := { s.wg with pulseWidth := min p.toNat 4095 }
      ports := none, rsps := s.rsps.set .wg none }) ∧
    (∀ m : BitVec 4, exec (.wgWrwave m) s = .next { s with
      wg := { s.wg with waveformSelect := m }, ports := none, rsps := s.rsps.set .wg none }) ∧
    (∀ b : BitVec 1, exec (.wgWrmodel b) s = .next { s with
      wg := { s.wg with chipModel := if b = 0#1 then .modelA else .modelB }
      ports := none, rsps := s.rsps.set .wg none }) ∧
    (∀ (c : Config) (v : Imm),
      execAt c (.wgWrfreq v) s = .next { s with
        wg := { s.wg with frequency := min v.toNat (2 ^ c.accBits - 1) }
        ports := none, rsps := s.rsps.set .wg none } ∧
      execAt c (.wgWrpw v) s = .next { s with
        wg := { s.wg with pulseWidth := min v.toNat (2 ^ c.pwBits - 1) }
        ports := none, rsps := s.rsps.set .wg none })) ∧
  (∀ w : Word,
    (w.extractLsb' 24 8 = 0x14#8 → decode w = .ok (.wgWrfreq (w.extractLsb' 0 24))) ∧
    (w.extractLsb' 24 8 = 0x15#8 → decode w = .ok (.wgWrpw (w.extractLsb' 0 24))) ∧
    (w.extractLsb' 24 8 = 0x16#8 → decode w = .ok (.wgWrwave (w.extractLsb' 0 4))) ∧
    (w.extractLsb' 24 8 = 0x17#8 → decode w = .ok (.wgWrmodel (w.extractLsb' 0 1))))

/-- R109 to R113, R115: the five selections of at most one waveform through `WG.OUT`, which writes nothing but the
node's response port: mid-level, sawtooth (bits 23:12), pulse, triangle (bits 22:11, of the complement in the upper
half), noise (eight register bits into bits 11 to 4). The mid-level and the noise map are defaults, triangle and pulse
general knowledge (log entry 8). The last clause says it of every instance whose widths the rules fit, where the slices
are the top bits of the accumulator and of the output (log entry 10). -/
def Obligations.WaveOutputOfSingleSelections : Prop :=
  ∀ s : State, s.Accepts .wg →
    let acc := s.wg.accumulator
    let b (j : Nat) : Nat := (s.wg.shiftRegister.testBit j).toNat
    let out (v : Nat) : State := { s with ports := none, rsps := s.rsps.set .wg (some (BitVec.ofNat 32 v)) }
    (s.wg.waveformSelect = 0b0000#4 → exec .wgOut s = .next (out 2048)) ∧
    (s.wg.waveformSelect = 0b0010#4 → exec .wgOut s = .next (out (acc / 2 ^ 12 % 2 ^ 12))) ∧
    (s.wg.waveformSelect = 0b0100#4 →
      exec .wgOut s = .next (out (if s.wg.pulseWidth ≤ acc / 2 ^ 12 % 2 ^ 12 then 0xFFF else 0))) ∧
    (s.wg.waveformSelect = 0b0001#4 → exec .wgOut s = .next (out
      ((if acc.testBit 23 then 2 ^ 24 - 1 - acc else acc) / 2 ^ 11 % 2 ^ 12))) ∧
    (s.wg.waveformSelect = 0b1000#4 → exec .wgOut s = .next (out
      (b 22 * 2 ^ 11 + b 20 * 2 ^ 10 + b 16 * 2 ^ 9 + b 13 * 2 ^ 8 + b 11 * 2 ^ 7 + b 7 * 2 ^ 6 + b 4 * 2 ^ 5
        + b 2 * 2 ^ 4))) ∧
    ∀ c : Config, c.Representable →
      let m (k : Fin 8) : Nat := b c.noiseOutMap[k]
      (s.wg.waveformSelect = 0b0000#4 → execAt c .wgOut s = .next (out c.midLevel.toNat)) ∧
      (s.wg.waveformSelect = 0b0010#4 →
        execAt c .wgOut s = .next (out (acc / 2 ^ (c.accBits - c.waveBits) % 2 ^ c.waveBits))) ∧
      (s.wg.waveformSelect = 0b0100#4 → execAt c .wgOut s = .next (out
        (if s.wg.pulseWidth ≤ acc / 2 ^ (c.accBits - c.pwBits) % 2 ^ c.pwBits then 2 ^ c.waveBits - 1 else 0))) ∧
      (s.wg.waveformSelect = 0b0001#4 → execAt c .wgOut s = .next (out
        ((if acc.testBit (c.accBits - 1) then 2 ^ c.accBits - 1 - acc else acc)
          / 2 ^ (c.accBits - 1 - c.waveBits) % 2 ^ c.waveBits))) ∧
      (s.wg.waveformSelect = 0b1000#4 → execAt c .wgOut s = .next (out
        ((m 0 * 2 ^ 7 + m 1 * 2 ^ 6 + m 2 * 2 ^ 5 + m 3 * 2 ^ 4 + m 4 * 2 ^ 3 + m 5 * 2 ^ 2 + m 6 * 2 + m 7)
          * 2 ^ (c.waveBits - 8))))

/-- R114: a combined selection reads its table at the top 12 bits of the accumulator and nothing else of WG, on every
instance whose widths the rules fit (log entry 10); the table's contents are open (log entry 9). -/
def Obligations.WaveOutputOfCombinedSelections : Prop :=
  ∀ s : State, s.Accepts .wg →
    let after (v : Nat) : State := { s with ports := none, rsps := s.rsps.set .wg (some (BitVec.ofNat 32 v)) }
    let entry (combo : Combo) : State :=
      after (Config.openComb s.wg.chipModel combo (BitVec.ofNat 12 (s.wg.accumulator / 2 ^ 12))).toNat
    let entryAt (c : Config) (combo : Combo) : State :=
      after (c.comb s.wg.chipModel combo (BitVec.ofNat 12 (s.wg.accumulator / 2 ^ (c.accBits - 12)))).toNat
    (s.wg.waveformSelect = 0b0011#4 → exec .wgOut s = .next (entry .ts) ∧
      ∀ c : Config, c.Representable → execAt c .wgOut s = .next (entryAt c .ts)) ∧
    (s.wg.waveformSelect = 0b0101#4 → exec .wgOut s = .next (entry .tp) ∧
      ∀ c : Config, c.Representable → execAt c .wgOut s = .next (entryAt c .tp)) ∧
    (s.wg.waveformSelect = 0b0110#4 → exec .wgOut s = .next (entry .sp) ∧
      ∀ c : Config, c.Representable → execAt c .wgOut s = .next (entryAt c .sp)) ∧
    (s.wg.waveformSelect = 0b0111#4 → exec .wgOut s = .next (entry .tsp) ∧
      ∀ c : Config, c.Representable → execAt c .wgOut s = .next (entryAt c .tsp))

/-- R116: noise with another waveform puts out a free 12-bit value (of the output's width, on an instance whose
widths the rules fit, log entry 10), a fresh one at each `WG.OUT`; the state of WG is kept. That the free values are numbered by a counter is the model's
choice (log entry 7). -/
def Obligations.MixedNoiseDrawsAFreeValue : Prop :=
  ∀ s : State, s.Accepts .wg → 9 ≤ s.wg.waveformSelect.toNat →
    let after (bits : Nat) : State := { s with
      ports := none, rsps := s.rsps.set .wg (some ((Config.draw bits s.draws).setWidth 32)), draws := s.draws + 1 }
    exec .wgOut s = .next (after 12) ∧
      ∀ c : Config, c.Representable → execAt c .wgOut s = .next (after c.waveBits)

/-! ## EnvelopeGenerator -/

/-- R131, with R11's default tables (log entry 8). -/
def Obligations.EnvelopeConstructInitializes : Prop :=
  ∀ s : State, s.sel = .eg → exec .egConstruct s = .next { s with
    eg := {
      life := .ready, state := .idle, holdZero := true, envelopeCounter := 0, rateCounter := 0
      rateCounterPeriod := 9, exponentialCounter := 0, exponentialCounterPeriod := 1
      attack := 0, decay := 0, sustain := 0, release := 0, gate := false, writeHold := false }
    ports := none, rsps := s.rsps.set .eg none }

/-- R132, R56: the soft reset keeps the ADSR registers and takes the period of Idle from `release`. The number 1 is
the default `EXP_BP[0]` (log entry 8). -/
def Obligations.EnvelopeResetKeepsAdsr : Prop :=
  ∀ s : State, s.Accepts .eg → exec .egReset s = .next { s with
    eg := { s.eg with
      state := .idle, holdZero := true, envelopeCounter := 0, rateCounter := 0
      rateCounterPeriod := nodeConfig.rate s.eg.release, exponentialCounter := 0, exponentialCounterPeriod := 1
      gate := false, writeHold := false }
    ports := none, rsps := s.rsps.set .eg none }

/-- R133: `EG.CLOCK n` is `n` single cycles of R139 and changes no register target and no life state. -/
def Obligations.EnvelopeClockKeepsRegisters : Prop :=
  ∀ (n : Imm) (s : State), s.Accepts .eg → ∃ e, exec (.egClock n) s = .next { s with
      eg := e, ports := none, rsps := s.rsps.set .eg none } ∧
    e = (egCycle nodeConfig)^[n.toNat] s.eg ∧ e.life = s.eg.life ∧ e.gate = s.eg.gate ∧
    e.attack = s.eg.attack ∧ e.decay = s.eg.decay ∧ e.sustain = s.eg.sustain ∧ e.release = s.eg.release

/-- R134: the level, unchanged state. -/
def Obligations.EnvelopeOutputIsTheLevel : Prop :=
  ∀ s : State, s.Accepts .eg → exec .egOut s = .next { s with
    ports := none, rsps := s.rsps.set .eg (some (s.eg.envelopeCounter.setWidth 32)) }

/-- R135, R136: the four registers are written together; the hold is set if the next cycle would have reloaded; the
period follows the state; no counter and no state changes. -/
def Obligations.AdsrWriteStoresAndArms : Prop :=
  ∀ (a d su r : BitVec 4) (s : State), s.Accepts .eg → exec (.egWradsr a d su r) s = .next { s with
    eg := { s.eg with
      attack := a, decay := d, sustain := su, release := r
      writeHold := s.eg.writeHold || decide (s.eg.rateCounter + 1 ≥ s.eg.rateCounterPeriod)
      rateCounterPeriod := nodeConfig.rate (match s.eg.state with
        | .attack => a
        | .decay => d
        | .release => r
        | .idle => r) }
    ports := none, rsps := s.rsps.set .eg none }

/-- R137: a rise enters Attack and clears `hold_zero`, a fall enters Release, a write that is no edge changes nothing;
no counter and no exponential period changes. The first four clauses are at the default `DELAY_BUG_ON_GATE`, false (log
entry 8); the last two at any configuration, where an edge on a reload cycle arms the hold if the parameter is set. -/
def Obligations.GateEdgesMoveTheState : Prop :=
  ∀ s : State, s.Accepts .eg →
    let after (e : EnvelopeGenerator) : State := { s with eg := e, ports := none, rsps := s.rsps.set .eg none }
    (s.eg.gate = false → exec (.egWrgate 1#1) s = .next (after { s.eg with
      state := .attack, holdZero := false, gate := true, rateCounterPeriod := nodeConfig.rate s.eg.attack })) ∧
    (s.eg.gate = true → exec (.egWrgate 0#1) s = .next (after { s.eg with
      state := .release, gate := false, rateCounterPeriod := nodeConfig.rate s.eg.release })) ∧
    (s.eg.gate = true → exec (.egWrgate 1#1) s = .next (after s.eg)) ∧
    (s.eg.gate = false → exec (.egWrgate 0#1) s = .next (after s.eg)) ∧
    ∀ c : Config,
      let held : Bool := s.eg.writeHold ||
        (c.delayBugOnGate && decide (s.eg.rateCounter + 1 ≥ s.eg.rateCounterPeriod))
      (s.eg.gate = false → execAt c (.egWrgate 1#1) s = .next (after { s.eg with
        state := .attack, holdZero := false, gate := true, writeHold := held
        rateCounterPeriod := c.rate s.eg.attack })) ∧
      (s.eg.gate = true → execAt c (.egWrgate 0#1) s = .next (after { s.eg with
        state := .release, gate := false, writeHold := held, rateCounterPeriod := c.rate s.eg.release }))

/-- R138: a write that lands on a reload cycle delays all that follows by exactly one cycle, whatever the new values
are; a write that does not, delays nothing; a second write before the same cycle, of whatever values of its own, costs
no second cycle. The naive machine is the same writes without the hold. -/
def Obligations.DelayBugCostsExactlyOneCycle : Prop :=
  ∀ (c : Config) (e : EnvelopeGenerator) (a d su r : BitVec 4) (k : Nat), e.writeHold = false →
    let written := egWithAdsr c a d su r e
    let naive (w : EnvelopeGenerator) : EnvelopeGenerator := { w with writeHold := false }
    (e.rateCounter + 1 ≥ e.rateCounterPeriod → (egCycle c)^[k + 1] written = (egCycle c)^[k] (naive written)) ∧
    (e.rateCounter + 1 < e.rateCounterPeriod → written = naive written) ∧
    (e.rateCounter + 1 ≥ e.rateCounterPeriod → ∀ a' d' su' r' : BitVec 4,
      let again := egWithAdsr c a' d' su' r' written
      again.writeHold = true ∧ again = { egWithAdsr c a' d' su' r' e with writeHold := true } ∧
      (egCycle c)^[k + 1] again = (egCycle c)^[k] (naive again))

/-- R139, for every state of the counters: a pending hold costs one cycle and nothing else; with none pending, from a
counter below the period the rate event falls in the cycle in which the counter reaches the period, and in no cycle
before it; from a counter at or above the period (a write lowered the period) it falls in the next cycle. -/
def Obligations.RateEventsFallEveryPeriod : Prop :=
  ∀ (c : Config) (e : EnvelopeGenerator),
    (e.writeHold = true → egCycle c e = { e with writeHold := false }) ∧
    (e.writeHold = false → e.rateCounter < e.rateCounterPeriod →
      (∀ k, e.rateCounter + k < e.rateCounterPeriod →
        (egCycle c)^[k] e = { e with rateCounter := e.rateCounter + k }) ∧
      (egCycle c)^[e.rateCounterPeriod - e.rateCounter] e = rateEvent c { e with rateCounter := 0 }) ∧
    (e.writeHold = false → e.rateCounterPeriod ≤ e.rateCounter →
      egCycle c e = rateEvent c { e with rateCounter := 0 })

/-- R141, R137: an attack event at every level and exponential state (below 254 one level up; at 254 up to 255 and to
Decay; at 255 to Decay alone), and the climb it makes. From any level, at any point of a period, the level is `k` higher
at the end of the `k`-th period while it stays below 255 (a retrigger continues from the current level); it is 255, in
Decay with the decay period, at the end of the period that reaches 255, or of the first one if it was 255 before. -/
def Obligations.AttackClimbsToTheTop : Prop :=
  ∀ (c : Config) (e : EnvelopeGenerator), e.state = .attack →
    (e.envelopeCounter.toNat < 254 → rateEvent c e = { e with
      exponentialCounter := 0, envelopeCounter := e.envelopeCounter + 1
      exponentialCounterPeriod := (c.expBp (e.envelopeCounter + 1)).getD e.exponentialCounterPeriod }) ∧
    (e.envelopeCounter = 254 → rateEvent c e = { e with
      exponentialCounter := 0, envelopeCounter := 255
      exponentialCounterPeriod := (c.expBp 255).getD e.exponentialCounterPeriod
      state := .decay, rateCounterPeriod := c.rate e.decay }) ∧
    (e.envelopeCounter = 255 → rateEvent c e = { e with
      exponentialCounter := 0, state := .decay, rateCounterPeriod := c.rate e.decay }) ∧
    (e.writeHold = false → e.rateCounterPeriod = c.rate e.attack → e.rateCounter < e.rateCounterPeriod →
      (∀ k : Nat, 1 ≤ k → e.envelopeCounter.toNat + k < 255 →
        let t := (egCycle c)^[k * c.rate e.attack - e.rateCounter] e
        t.state = .attack ∧ t.envelopeCounter.toNat = e.envelopeCounter.toNat + k ∧ t.rateCounter = 0) ∧
      (∀ t, t = (egCycle c)^[max 1 (255 - e.envelopeCounter.toNat) * c.rate e.attack - e.rateCounter] e →
        t.state = .decay ∧ t.envelopeCounter = 255 ∧ t.rateCounter = 0 ∧ t.rateCounterPeriod = c.rate e.decay))

/-- R147, R141, R142, R143: over any number of cycles an Attack never falls until it ends, a Decay or Release never
rises; Decay at its sustain level stays there; level 0 with `hold_zero` set stays so outside Attack. -/
def Obligations.EnvelopeIsMonotone : Prop :=
  ∀ (c : Config) (e : EnvelopeGenerator) (n : Nat),
    (((egCycle c)^[n] e).state = .attack → e.envelopeCounter.toNat ≤ ((egCycle c)^[n] e).envelopeCounter.toNat) ∧
    (e.state = .decay ∨ e.state = .release → ((egCycle c)^[n] e).envelopeCounter.toNat ≤ e.envelopeCounter.toNat) ∧
    (e.state = .decay → e.envelopeCounter = c.sustain e.sustain →
      ((egCycle c)^[n] e).envelopeCounter = e.envelopeCounter ∧ ((egCycle c)^[n] e).state = .decay) ∧
    (e.state ≠ .attack → e.envelopeCounter = 0 → e.holdZero = true →
      ((egCycle c)^[n] e).envelopeCounter = 0 ∧ ((egCycle c)^[n] e).holdZero = true ∧
      ((egCycle c)^[n] e).state ≠ .attack)

/-- R140, R142, R145, R143: one rate event in Decay or Release, in every case: below the gate it counts; at the gate the
exponential counter is cleared, and at level 0 `hold_zero` is set and Release goes to Idle; with `hold_zero` set or in
Decay at the sustain level nothing else happens; above it the level falls by one, and at level 1 it reaches 0 in the
same event. Decay at level 0 with `hold_zero` clear, which no run reaches, takes no step (log entry 11). R140, R144: a
rate event in Idle does nothing, and cycles in Idle change the rate counter alone (and clear a pending hold, R139); Idle
is left by a gate rise alone, and entered by a `CLOCK`, a `CONSTRUCT` or a `RESET`. The premise that the gate is low in
Idle is an invariant (R57 (e), EveryStepKeepsTheInvariant). -/
def Obligations.ExponentialEventIsGated : Prop :=
  (∀ (c : Config) (e : EnvelopeGenerator), e.state = .decay ∨ e.state = .release →
    let stalls := e.holdZero = true ∨ (e.state = .decay ∧ e.envelopeCounter = c.sustain e.sustain)
    let ended : EnvState := if e.state = .release then .idle else .decay
    (e.exponentialCounter + 1 < e.exponentialCounterPeriod →
      rateEvent c e = { e with exponentialCounter := e.exponentialCounter + 1 }) ∧
    (e.exponentialCounter + 1 ≥ e.exponentialCounterPeriod →
      (e.envelopeCounter = 0 → rateEvent c e = { e with exponentialCounter := 0, holdZero := true, state := ended }) ∧
      (e.envelopeCounter ≠ 0 → stalls → rateEvent c e = { e with exponentialCounter := 0 }) ∧
      (1 < e.envelopeCounter.toNat → ¬ stalls → rateEvent c e = { e with
        exponentialCounter := 0, envelopeCounter := e.envelopeCounter - 1
        exponentialCounterPeriod := (c.expBp (e.envelopeCounter - 1)).getD e.exponentialCounterPeriod }) ∧
      (e.envelopeCounter = 1 → ¬ stalls → rateEvent c e = { e with
        exponentialCounter := 0, envelopeCounter := 0
        exponentialCounterPeriod := (c.expBp 0).getD e.exponentialCounterPeriod
        holdZero := true, state := ended }))) ∧
  (∀ (c : Config) (e : EnvelopeGenerator), e.state = .idle → rateEvent c e = e ∧
    ∀ n : Nat, ∃ count, (egCycle c)^[n] e =
      { e with rateCounter := count, writeHold := e.writeHold && decide (n = 0) }) ∧
  (∀ (c : Config) (i : Instr) (s t : State), execAt c i s = .next t →
    (s.eg.state = .idle → s.eg.gate = false → t.eg.state ≠ .idle → i = .egWrgate 1#1) ∧
    (s.eg.state ≠ .idle → t.eg.state = .idle → i = .egConstruct ∨ i = .egReset ∨ ∃ n, i = .egClock n))

/-! ## Filter -/

/-- R171, R51: dithering on, unity volumes, all else 0, the caches recomputed; 1448 is `floor(1024/0.707)`. The number
26353 is the default `W0_CEIL`, and the default spans of `Q` give 1448 (log entry 8); `W0TAB` and `DEFAULT_MODEL` are
open (log entry 9). -/
def Obligations.FilterConstructInitializes : Prop :=
  ∀ s : State, s.sel = .fl → exec .flConstruct s = .next { s with
    fl := {
      life := .ready, voiceVolume := #v[256, 256, 256], ditherEnable := true
      vhp := 0, vbp := 0, vlp := 0, vi := 0, vnf := 0, cutoff := 0, resonance := 0, resonanceBoost := 0
      routing := 0, mode := 0, volume := 0, chipModel := Config.openDefaultModel
      w0Int := min (nodeConfig.w0tab Config.openDefaultModel 0) 26353, q1024 := 1448, ditherIndex := 0 }
    ports := none, rsps := s.rsps.set .fl none }

/-- R172, R56: the soft reset clears voltages, sums and the dither index, keeps the rest, and a following `FL.OUT` is
`sat_16(MIXER_DC * volume)`. The offset is an open constant (log entry 9). -/
def Obligations.FilterResetKeepsTargets : Prop :=
  ∀ s : State, s.Accepts .fl → ∃ t, exec .flReset s = .next t ∧
    t = { s with
      fl := { s.fl with vhp := 0, vbp := 0, vlp := 0, vi := 0, vnf := 0, ditherIndex := 0 }
      ports := none, rsps := s.rsps.set .fl none } ∧
    exec .flOut t = .next { t with rsps := t.rsps.set .fl (some (BitVec.ofInt 32
      (min (max (nodeConfig.mixerDc s.fl.chipModel * (s.fl.volume.toNat : Int)) (-32768)) 32767))) }

/-- R175, R176, R177, R183, R51: the four writes that change an argument of a cache store their operand and recompute
the cache in the same command. 26353 is the default `W0_CEIL` (log entry 8), and `W0TAB` is open (log entry 9); the last
clause says it of the cutoff of every instance, clamped to its largest (log entry 27). -/
def Obligations.CacheWritesRecompute : Prop :=
  ∀ s : State, s.Accepts .fl →
    let after (f : FilterUnit) : State := { s with fl := f, ports := none, rsps := s.rsps.set .fl none }
    (∀ fc : Imm, let v := min fc.toNat 2047
      exec (.flWrfc fc) s = .next (after { s.fl with
        cutoff := v, w0Int := min (nodeConfig.w0tab s.fl.chipModel v) 26353 })) ∧
    (∀ res : Imm, let v := BitVec.ofNat 4 (min res.toNat 15)
      exec (.flWrres res) s = .next (after { s.fl with
        resonance := v, q1024 := (1024 / qOf nodeConfig v s.fl.resonanceBoost).floor.toNat })) ∧
    (∀ b : Imm, let v := BitVec.ofNat 8 (min b.toNat 255)
      exec (.flWrboost b) s = .next (after { s.fl with
        resonanceBoost := v, q1024 := (1024 / qOf nodeConfig s.fl.resonance v).floor.toNat })) ∧
    (∀ b : BitVec 1, let m := if b = 0#1 then ChipModel.modelA else ChipModel.modelB
      exec (.flWrmodel b) s = .next (after { s.fl with
        chipModel := m, w0Int := min (nodeConfig.w0tab m s.fl.cutoff) 26353 })) ∧
    (∀ (c : Config) (fc : Imm), let v := min fc.toNat c.cutoffMax
      execAt c (.flWrfc fc) s = .next (after { s.fl with
        cutoff := v, w0Int := min (c.w0tab s.fl.chipModel v) c.w0Ceil }))

/-- R178, R179, R180, R182: the other four one-register writes store their operand and nothing else. -/
def Obligations.FilterWritesStoreTheirOperand : Prop :=
  ∀ s : State, s.Accepts .fl →
    let after (f : FilterUnit) : State := { s with fl := f, ports := none, rsps := s.rsps.set .fl none }
    (∀ m : BitVec 4, exec (.flWrroute m) s = .next (after { s.fl with routing := m })) ∧
    (∀ m : BitVec 3, exec (.flWrmode m) s = .next (after { s.fl with mode := m })) ∧
    (∀ v : Imm, exec (.flWrvol v) s = .next (after { s.fl with volume := BitVec.ofNat 4 (min v.toNat 15) })) ∧
    (∀ b : BitVec 1, exec (.flWrdither b) s = .next (after { s.fl with ditherEnable := b == 1#1 }))

/-- R181: for `k` in 0..2 the value, clamped to 256, is stored in that voice's scalar and the other two are kept; `k = 3`
is refused, in every state. So it is on every instance, clamped to its unity volume (log entry 27). -/
def Obligations.VoiceVolumeWritesOneVoice : Prop :=
  ∀ (k : BitVec 2) (val : BitVec 16) (s : State),
    (k = 3#2 → exec (.flWrvvol k val) s = .refused .reservedVoice ∧
      ∀ c : Config, execAt c (.flWrvvol k val) s = .refused .reservedVoice) ∧
    (k ≠ 3#2 → s.Accepts .fl →
      let after (volumes : Vector Nat 3) : State := { s with
        fl := { s.fl with voiceVolume := volumes }, ports := none, rsps := s.rsps.set .fl none }
      let stored (unity : Nat) (volumes : Vector Nat 3) : Prop :=
        ∀ j : Fin 3, volumes[j] = if j.val = k.toNat then min val.toNat unity else s.fl.voiceVolume[j]
      (∃ volumes, exec (.flWrvvol k val) s = .next (after volumes) ∧ stored 256 volumes) ∧
      (∀ c : Config, ∃ volumes, execAt c (.flWrvvol k val) s = .next (after volumes) ∧ stored c.unityVolume volumes))

/-- R184: `q1024` at the six points of the test vectors, and its range over all registers. The numbers are those of
the default `Q` (log entry 8). -/
def Obligations.ResonanceConstantStaysInRange : Prop :=
  (∀ (res : BitVec 4) (boost : BitVec 8), nodeConfig.qBase ≤ qOf nodeConfig res boost ∧
    204 ≤ q1024Of nodeConfig res boost ∧ q1024Of nodeConfig res boost ≤ 1448) ∧
  q1024Of nodeConfig 0 0 = 1448 ∧ q1024Of nodeConfig 8 0 = 825 ∧ q1024Of nodeConfig 15 0 = 599 ∧
  q1024Of nodeConfig 0 255 = 256 ∧ q1024Of nodeConfig 15 255 = 204 ∧ q1024Of nodeConfig 7 128 = 362

/-- R185: every input goes to exactly one of the two sums; the terms are those of the rule, with floor shifts, and a
voice's scalar is over the unity volume, the shift by 8 at the default 256 (log entry 27). -/
def Obligations.InputStageSplitsTheInputs : Prop :=
  ∀ (c : Config) (p : SamplePorts) (f : FilterUnit),
    let d (k : Fin 3) : Int := if f.ditherEnable then ((c.dither f.ditherIndex k).toNat : Int) else 0
    let term (k : Fin 3) (v : Sample) : Int :=
      (min (v.toInt + d k) 524287 / 2 ^ 7 * (f.voiceVolume[k] : Int)) / (c.unityVolume : Int)
    let s0 := term 0 p.v1
    let s1 := term 1 p.v2
    let s2 := term 2 p.v3
    let s3 := p.ext.toInt / 2 ^ 7
    let t := inputStage c p f
    t.vi + t.vnf = s0 + s1 + s2 + s3 ∧ t.ditherIndex = f.ditherIndex + 1 ∧
    t.vi = (if f.routing.getLsbD 0 then s0 else 0) + (if f.routing.getLsbD 1 then s1 else 0)
      + (if f.routing.getLsbD 2 then s2 else 0) + (if f.routing.getLsbD 3 then s3 else 0) ∧
    t = { f with vi := t.vi, vnf := t.vnf, ditherIndex := t.ditherIndex } ∧ (nodeConfig.unityVolume : Int) = 2 ^ 8

/-- R186: the sub-steps of `n` cycles add up to `n`, are at most `FILTER_CHUNK` and at least one cycle each, and are
`floor(n / FILTER_CHUNK)` full chunks followed by at most one remainder. -/
def Obligations.SubstepsCoverTheCycles : Prop :=
  ∀ (c : Config) (n : Nat), c.WellFormed →
    (substepSizes c n).sum = n ∧ (∀ dt ∈ substepSizes c n, 1 ≤ dt ∧ dt ≤ c.filterChunk ∧ dt ≤ 8) ∧
    (substepSizes c n).length = n / c.filterChunk + (if n % c.filterChunk = 0 then 0 else 1) ∧
    (substepSizes c n).take (n / c.filterChunk) = List.replicate (n / c.filterChunk) c.filterChunk

/-- R187, R188: one sub-step either stores exactly the three voltages of the rule's equations, all in `V_BITS` bits,
or is `FilterRange`, which it is just when one of them is out of range. That the range is checked after the three
assignments is the model's reading (log entry 15). -/
def Obligations.SubstepFollowsTheEquations : Prop :=
  ∀ (c : Config) (dt : Nat) (f : FilterUnit),
    let w := (f.w0Int : Int) * dt / 2 ^ 6
    let vbp := f.vbp - w * f.vhp / 2 ^ 14
    let vlp := f.vlp - w * f.vbp / 2 ^ 14
    let vhp := vbp * (f.q1024 : Int) / 2 ^ 10 - vlp - f.vi
    let lim : Int := 2 ^ (c.vBits - 1)
    let inRange (x : Int) : Prop := -lim ≤ x ∧ x ≤ lim - 1
    (inRange vbp ∧ inRange vlp ∧ inRange vhp →
      flSubstep c dt f = .ok { f with vbp := vbp, vlp := vlp, vhp := vhp }) ∧
    (¬ (inRange vbp ∧ inRange vlp ∧ inRange vhp) → flSubstep c dt f = .error .filterRange)

/-- R173, R186 (decision D34): `FL.CLOCK n` is the input stage and then the sub-steps, on every instance those of its own
`FILTER_CHUNK` and `V_BITS`; when they end, it completes, and it changes no register target, cache or life state; when
one is `FilterRange`, the command is the fault `FilterRange` (R188; that the fault ends the run is the model's reading,
log entry 5); `FL.CLOCK 0` runs the input stage alone. -/
def Obligations.FilterClockRunsStageAndSubsteps : Prop :=
  ∀ s : State, s.Accepts .fl →
    let after (f : FilterUnit) : State := { s with fl := f, ports := none, rsps := s.rsps.set .fl none }
    let runs (c : Config) (clock : Imm → Result) : Prop :=
      (∀ (n : Imm) (g : FilterUnit),
        flIntegrate c (substepSizes c n.toNat) (inputStage c s.portValues s.fl) = .ok g →
        clock n = .next (after g) ∧
        g = { s.fl with
          vhp := g.vhp, vbp := g.vbp, vlp := g.vlp, vi := g.vi, vnf := g.vnf
          ditherIndex := s.fl.ditherIndex + 1 }) ∧
      (∀ n : Imm,
        flIntegrate c (substepSizes c n.toNat) (inputStage c s.portValues s.fl) = .error .filterRange →
        clock n = .fault .filterRange) ∧
      clock 0 = .next (after (inputStage c s.portValues s.fl))
    runs nodeConfig (fun n => exec (.flClock n) s) ∧ ∀ c : Config, runs c (fun n => execAt c (.flClock n) s)

/-- R174: the output is the enabled voltages, the bypass sum and the offset, times the volume, saturated to 16 bits;
no state of FL is written. The offset is an open constant (log entry 9). The second clause says it of every instance
whose output fits the port, with its own `MIXER_DC` and `SAT_BITS` (log entry 26). -/
def Obligations.FilterOutputMixesAndSaturates : Prop :=
  ∀ s : State, s.Accepts .fl →
    let f := s.fl
    let vf := (if f.mode.getLsbD 0 then f.vlp else 0) + (if f.mode.getLsbD 1 then f.vbp else 0)
      + (if f.mode.getLsbD 2 then f.vhp else 0)
    let raw (c : Config) : Int := (f.vnf + vf + c.mixerDc f.chipModel) * (f.volume.toNat : Int)
    let out (v : Int) : State := { s with ports := none, rsps := s.rsps.set .fl (some (BitVec.ofInt 32 v)) }
    exec .flOut s = .next (out (min (max (raw nodeConfig) (-32768)) 32767)) ∧
    ∀ c : Config, 1 ≤ c.satBits → c.satBits ≤ 32 → execAt c .flOut s =
      .next (out (min (max (raw c) (-2 ^ (c.satBits - 1))) (2 ^ (c.satBits - 1) - 1)))

/-- R190: with everything bypassed and the voltages at 0, any number of cycles executes and keeps the voltages at 0,
and the output is the volume-scaled, saturated bypass sum plus offset, at every mode, cutoff and resonance. The offset
is an open constant (log entry 9). -/
def Obligations.BypassIsExact : Prop :=
  ∀ (n : Imm) (s : State), s.Accepts .fl → s.fl.routing = 0 → s.fl.vhp = 0 → s.fl.vbp = 0 → s.fl.vlp = 0 →
    let vnf := (inputStage nodeConfig s.portValues s.fl).vnf
    ∃ t, exec (.flClock n) s = .next t ∧ t.fl.vhp = 0 ∧ t.fl.vbp = 0 ∧ t.fl.vlp = 0 ∧ t.fl.vi = 0 ∧
      t.fl.vnf = vnf ∧
      exec .flOut t = .next { t with rsps := t.rsps.set .fl (some (BitVec.ofInt 32
        (min (max ((vnf + nodeConfig.mixerDc s.fl.chipModel) * (s.fl.volume.toNat : Int)) (-32768)) 32767))) }

/-! ## The whole machine -/

/-- R86: in WG and EG, clocking `m` and then `n` cycles is clocking `m + n`, and clocking 0 changes no unit. -/
def Obligations.ClockCommandsAdd : Prop :=
  ∀ (m n : Imm) (s : State), m.toNat + n.toNat < 2 ^ 24 →
    (s.Accepts .wg → exec (.wgClock 0) s = .next { s with ports := none, rsps := s.rsps.set .wg none } ∧
      ∃ t, exec (.wgClock m) s = .next t ∧ exec (.wgClock n) t = exec (.wgClock (m + n)) s) ∧
    (s.Accepts .eg → exec (.egClock 0) s = .next { s with ports := none, rsps := s.rsps.set .eg none } ∧
      ∃ t, exec (.egClock m) s = .next t ∧ exec (.egClock n) t = exec (.egClock (m + n)) s)

/-- R66: an `OUT` leaves its unit, its ClockBridge and every other node as they were, and, but for a free value
(R116), issued twice it leaves the same state as issued once. -/
def Obligations.OutputsAreIdempotent : Prop :=
  ∀ (i : Instr) (s t : State), i ∈ [Instr.wgOut, .egOut, .flOut] → exec i s = .next t →
    (t.wg = s.wg ∧ t.eg = s.eg ∧ t.fl = s.fl ∧ t.cbs = s.cbs) ∧
    (t.draws = s.draws → exec i t = .next t)

/-- R4, R75, R264: a command touches only the node it is issued to; every other node keeps its ClockBridge, its
generator and its response port, and no value on a sample port survives the command. The three nodes are the
model's choice (log entry 1). -/
def Obligations.CommandsTouchOnlyTheirNode : Prop :=
  ∀ (c : Command) (s t : State), issue c s = .next t →
    (∀ k, k ≠ c.node → SameNode k s t) ∧ t.stream = s.stream ∧ t.sel = c.node ∧
    t.ports = none ∧ (t.draws ≠ s.draws → decode c.word = .ok .wgOut)

/-- R4, R75, R70: what a command does to its node depends on nothing of the other nodes: from two states that agree on
the node (and on the model's counter of free values) it answers alike, and they agree on the node after it. The three
nodes and the counter are the model's choice (log entries 1, 7), and so is, for an `FL.CLOCK` with which the host
presents no values, that a port's free value is one constant for both runs (log entry 12). -/
def Obligations.NodesAreIndependent : Prop :=
  ∀ (c : Command) (s s' : State), SameNode c.node s s' → s.draws = s'.draws →
    (∀ t, issue c s = .next t → ∃ t', issue c s' = .next t' ∧ SameNode c.node t t' ∧ t.draws = t'.draws) ∧
    (∀ e, issue c s = .fault e → issue c s' = .fault e) ∧ (∀ r, issue c s = .refused r → issue c s' = .refused r)

/-- R55: each register target has one write operation; apart from `CONSTRUCT` nothing else changes it. -/
def Obligations.RegisterTargetsHaveOneWriter : Prop :=
  ∀ (i : Instr) (s t : State), i.isConstruct = false → exec i s = .next t →
    (t.wg.frequency ≠ s.wg.frequency → ∃ f, i = .wgWrfreq f) ∧
    (t.wg.pulseWidth ≠ s.wg.pulseWidth → ∃ p, i = .wgWrpw p) ∧
    (t.wg.waveformSelect ≠ s.wg.waveformSelect → ∃ m, i = .wgWrwave m) ∧
    (t.wg.chipModel ≠ s.wg.chipModel → ∃ b, i = .wgWrmodel b) ∧
    ((t.eg.attack, t.eg.decay, t.eg.sustain, t.eg.release) ≠ (s.eg.attack, s.eg.decay, s.eg.sustain, s.eg.release) →
      ∃ a d su r, i = .egWradsr a d su r) ∧
    (t.fl.voiceVolume ≠ s.fl.voiceVolume → ∃ k v, i = .flWrvvol k v) ∧
    (t.fl.ditherEnable ≠ s.fl.ditherEnable → ∃ b, i = .flWrdither b) ∧
    (t.fl.cutoff ≠ s.fl.cutoff → ∃ fc, i = .flWrfc fc) ∧
    (t.fl.resonance ≠ s.fl.resonance → ∃ r, i = .flWrres r) ∧
    (t.fl.resonanceBoost ≠ s.fl.resonanceBoost → ∃ b, i = .flWrboost b) ∧
    (t.fl.routing ≠ s.fl.routing → ∃ m, i = .flWrroute m) ∧
    (t.fl.mode ≠ s.fl.mode → ∃ m, i = .flWrmode m) ∧
    (t.fl.volume ≠ s.fl.volume → ∃ v, i = .flWrvol v) ∧
    (t.fl.chipModel ≠ s.fl.chipModel → ∃ b, i = .flWrmodel b) ∧
    (∀ k, (t.cbs.get k).sampleRate = (s.cbs.get k).sampleRate)

/-- R88: the results' ranges: 12 bits from `WG.OUT`, 8 from `EG.OUT`, signed 16 from `FL.OUT`, and no result from a
command that has none. That the port then holds no value is the model's reading (log entry 6). -/
def Obligations.ResultsStayInRange : Prop :=
  ∀ (i : Instr) (s t : State), exec i s = .next t →
    (i = .wgOut → ∃ v : BitVec 32, t.rsps.wg = some v ∧ 0 ≤ v.toInt ∧ v.toInt ≤ 4095) ∧
    (i = .egOut → ∃ v : BitVec 32, t.rsps.eg = some v ∧ 0 ≤ v.toInt ∧ v.toInt ≤ 255) ∧
    (i = .flOut → ∃ v : BitVec 32, t.rsps.fl = some v ∧ -32768 ≤ v.toInt ∧ v.toInt ≤ 32767) ∧
    (i = .cbTick → (t.rsps.get t.sel).isSome = true) ∧
    (i ∉ [Instr.wgOut, .egOut, .flOut, .cbTick] → t.rsps.get t.sel = none)

/-- R11: the model takes the configuration as an argument (execAt, stepAt, State.resetAt), and exec, step and
State.reset are the instance at the record's defaults, which are a well-formed configuration. The defaults R11 marks as
general knowledge or as the spec's choice are log entry 8; the five parameters without one are left open (log entry 9). The two
fields beside the record, for the literals of D45, are log entry 27. -/
def Obligations.TheDefaultsAreOneInstance : Prop :=
  (∀ (i : Instr) (s : State), execAt nodeConfig i s = exec i s) ∧ (∀ s : State, stepAt nodeConfig s = step s) ∧
  State.resetAt nodeConfig = State.reset ∧ nodeConfig.WellFormed ∧ nodeConfig.Representable ∧
  nodeConfig.clockRate = 985248 ∧ nodeConfig.accBits = 24 ∧ nodeConfig.pwBits = 12 ∧ nodeConfig.waveBits = 12 ∧
  nodeConfig.lfsrBits = 23 ∧ nodeConfig.noiseClockBit.val = 19 ∧ nodeConfig.lfsrTaps.1.val = 22 ∧
  nodeConfig.lfsrTaps.2.val = 17 ∧ nodeConfig.lfsrReset.toNat = 0x7FFFF8 ∧
  nodeConfig.noiseOutMap.toList.map Fin.val = [22, 20, 16, 13, 11, 7, 4, 2] ∧ nodeConfig.midLevel.toNat = 2048 ∧
  List.ofFn (fun r : Fin 16 => nodeConfig.rate (BitVec.ofFin r)) =
    [9, 32, 63, 95, 149, 220, 267, 313, 392, 977, 1954, 3126, 3907, 11720, 19532, 31251] ∧
  (∀ v : BitVec 4, (nodeConfig.sustain v).toNat = 17 * v.toNat) ∧
  (∀ v : BitVec 8, nodeConfig.expBp v =
    [(255#8, 1), (93#8, 2), (54#8, 4), (26#8, 8), (14#8, 16), (6#8, 30), (0#8, 1)].lookup v) ∧
  nodeConfig.delayBugOnGate = false ∧ nodeConfig.cutoffMax = 2047 ∧ nodeConfig.unityVolume = 256 ∧
  nodeConfig.w0Ceil = 26353 ∧ nodeConfig.qBase = 707 / 1000 ∧
  nodeConfig.qResSpan = 1 ∧ nodeConfig.qBoostSpan = 3293 / 1000 ∧ nodeConfig.filterChunk = 8 ∧
  nodeConfig.vBits = 32 ∧ nodeConfig.satBits = 16 ∧ nodeConfig.freqHzMin = 1 / 10 ∧ nodeConfig.freqHzMax = 20000

/-- R57, R58: the invariant of `10_state.md` holds at power-on of every instance with a well-formed configuration, and
of the one at the defaults. The values at power-on are the model's (log entry 3). -/
def Obligations.InvariantHoldsAtPowerOn : Prop :=
  (∀ c : Config, c.WellFormed → (State.resetAt c).Inv c) ∧ State.reset.Inv nodeConfig

/-- R57, R58: every step keeps the invariant of `10_state.md`, in every state that has it, whatever the next command:
at the defaults, and on every instance, of whatever widths, whose configuration is well formed, whose `V_BITS` holds
every `Vnf` (log entry 25), and (the proviso of R57 (h)) whose noise register step maps no non-zero value to 0. -/
def Obligations.EveryStepKeepsTheInvariant : Prop :=
  (∀ s t : State, s.Inv nodeConfig → step s = .next t → t.Inv nodeConfig) ∧
  (∀ c : Config, c.WellFormed → 15 ≤ c.vBits → (∀ r : Nat, r < 2 ^ c.lfsrBits → r ≠ 0 → lfsrStep c r ≠ 0) →
    ∀ s t : State, s.Inv c → stepAt c s = .next t → t.Inv c)

/-! ## NodeAdapter -/

/-- R221, R252: on every instance, `construct` with a positive whole rate makes both units of the node `Ready`; with a
rate that is not positive the ClockBridge is `Faulted`, and no block of one sample or more runs, whatever its events:
the first tick is refused. That the fault is a next state is the model's reading (log entry 4). -/
def Obligations.NodeConstructReadiesOrFaults : Prop :=
  ∀ (c : Config) (k : NodeId) (rate : Int) (s : State), ∃ t, performAll c k (nodeConstruct k rate) s = .next t ∧
    (0 < rate → t.cbs.get k = { life := .ready, sampleRate := (min rate 16777215).toNat, resNum := 0 }) ∧
    (rate ≤ 0 → (t.cbs.get k).life = .faulted 0 ∧
      ∀ (n : Nat) (events : List BlockEvent) (inputs : Nat → SamplePorts), blockWellFormed k (n + 1) events = true →
        processBlock c k (n + 1) events inputs t = .refused .unitFaulted) ∧
    (match k with
      | .wg => t.wg.life = .ready
      | .eg => t.eg.life = .ready
      | .fl => t.fl.life = .ready)

/-- R225, R226: a block of `a + b` samples is a block of `a` samples and then one of `b`, the events shifted and the
inputs carried on; the buffers follow each other. A block of one sample is its events in list order, then `CB.TICK`, then
`G.CLOCK` of that tick's result where it fits 24 bits (for FL with the sample's inputs), then `G.OUT`, and the buffer
holds that result; at the defaults it runs on a WG or EG node whose units are `Ready` with the residue below the rate. An
empty block issues nothing. -/
def Obligations.BlocksConcatenate : Prop :=
  (∀ (c : Config) (k : NodeId) (a b : Nat) (es fs : List BlockEvent) (inputs : Nat → SamplePorts) (s t u : State)
    (o₁ o₂ : List (Option Word)),
    processBlock c k a es inputs s = .next (t, o₁) →
    processBlock c k b fs (fun i => inputs (a + i)) t = .next (u, o₂) →
    processBlock c k (a + b) (es ++ fs.map fun e => { e with offset := a + e.offset }) inputs s =
      .next (u, o₁ ++ o₂)) ∧
  (∀ (c : Config) (k : NodeId) (es : List BlockEvent) (inputs : Nat → SamplePorts) (s s₁ s₂ s₃ s₄ : State) (n : Word),
    let clock : Instr := match k with
      | .wg => .wgClock (n.setWidth 24)
      | .eg => .egClock (n.setWidth 24)
      | .fl => .flClock (n.setWidth 24)
    let out : Instr := match k with
      | .wg => .wgOut
      | .eg => .egOut
      | .fl => .flOut
    blockWellFormed k 1 es = true →
    runCommands c (es.map fun e => ⟨k, e.word, none⟩) s = .next s₁ →
    execAt c .cbTick (s₁.present k none) = .next s₂ → s₂.rsps.get k = some n → n.toNat < 2 ^ 24 →
    execAt c clock (s₂.present k (some (inputs 0))) = .next s₃ →
    execAt c out (s₃.present k none) = .next s₄ →
    processBlock c k 1 es inputs s = .next (s₄, [s₄.rsps.get k])) ∧
  (∀ (k : NodeId) (es : List BlockEvent) (inputs : Nat → SamplePorts) (s : State),
    (k = .wg ∧ s.wg.life = .ready) ∨ (k = .eg ∧ s.eg.life = .ready) → (s.cbs.get k).life = .ready →
    (s.cbs.get k).resNum < (s.cbs.get k).sampleRate → blockWellFormed k 1 es = true →
    ∃ t v, processBlock nodeConfig k 1 es inputs s = .next (t, [some v])) ∧
  (∀ (c : Config) (k : NodeId) (inputs : Nat → SamplePorts) (s : State), processBlock c k 0 [] inputs s = .next (s, []))

/-- R223: an event that is no gate write, lies outside the block or is sent to a node without EG makes the block
malformed, and it is refused before any command is issued (log entry 20). -/
def Obligations.MalformedBlocksAreRefused : Prop :=
  ∀ (c : Config) (k : NodeId) (n : Nat) (events : List BlockEvent) (inputs : Nat → SamplePorts) (s : State)
    (e : BlockEvent),
    e ∈ events → (n ≤ e.offset ∨ k ≠ .eg ∨ ∀ b, decode e.word ≠ .ok (.egWrgate b)) →
    processBlock c k n events inputs s = .refused .malformedBlock

/-- R226, R228 to R237, R255: every setter's conversion. On every instance a rounded frequency that fits the operand
is the operand, and the pulse width, the cutoff and the voice volume are scaled or clamped to their registers' maxima
where these fit the operand (log entries 10, 24, 27). The frequency setter produces 2..340568 at the default rate, at
the clamps and beyond exactly these; a fraction becomes `floor(clamp(f, 0, 1) * max)`; an integer is clamped to its
register; a mask keeps its defined bits; a waveform selector, a flag and a chip model become their bits; a filter input
is clamped to 20 bits. -/
def Obligations.SettersClampExactly : Prop :=
  (∀ hz : Rat, ∃ f : Imm, setFrequencyHz nodeConfig hz = .wgWrfreq f ∧ 2 ≤ f.toNat ∧ f.toNat ≤ 340568 ∧
    (hz ≤ 1 / 10 → f.toNat = 2) ∧ (20000 ≤ hz → f.toNat = 340568) ∧
    (f.toNat : Int) = (min (max hz (1 / 10)) 20000 * 2 ^ 24 / 985248 + 1 / 2).floor) ∧
  setFrequencyHz nodeConfig 440 = .wgWrfreq 7493 ∧ setFrequencyHz nodeConfig 1000 = .wgWrfreq 17028 ∧
  (∀ x : Rat, ∃ p fc res b : Imm,
    setPulseWidth nodeConfig x = .wgWrpw p ∧ (p.toNat : Int) = (min (max x 0) 1 * 4095).floor ∧
    setCutoffNormalized nodeConfig x = .flWrfc fc ∧ (fc.toNat : Int) = (min (max x 0) 1 * 2047).floor ∧
    setResonance x = .flWrres res ∧ (res.toNat : Int) = (min (max x 0) 1 * 15).floor ∧
    setResonanceBoost x = .flWrboost b ∧ (b.toNat : Int) = (min (max x 0) 1 * 255).floor) ∧
  (∀ (c : Config) (hz : Rat),
    let f := (min (max hz c.freqHzMin) c.freqHzMax * 2 ^ c.accBits / c.clockRate + 1 / 2).floor
    0 ≤ f → f < 2 ^ 24 → ∃ v : Imm, setFrequencyHz c hz = .wgWrfreq v ∧ (v.toNat : Int) = f) ∧
  (∀ (c : Config) (x : Rat), c.pwBits ≤ 24 → ∃ p : Imm,
    setPulseWidth c x = .wgWrpw p ∧ (p.toNat : Int) = (min (max x 0) 1 * (2 ^ c.pwBits - 1)).floor) ∧
  (∀ a d su r : Int, ∃ a' d' su' r' : BitVec 4, setADSR a d su r = .egWradsr a' d' su' r' ∧
    (a'.toNat : Int) = min (max a 0) 15 ∧ (d'.toNat : Int) = min (max d 0) 15 ∧
    (su'.toNat : Int) = min (max su 0) 15 ∧ (r'.toNat : Int) = min (max r 0) 15) ∧
  (∀ x : Int, ∃ fc v : Imm, setCutoffRegister nodeConfig x = .flWrfc fc ∧ (fc.toNat : Int) = min (max x 0) 2047 ∧
    setVolume x = .flWrvol v ∧ (v.toNat : Int) = min (max x 0) 15) ∧
  (∀ (k : Fin 3) (x : Int), ∃ val : BitVec 16,
    setVoiceVolume nodeConfig k x = .flWrvvol (BitVec.ofNat 2 k) val ∧ (val.toNat : Int) = min (max x 0) 256 ∧
    (setVoiceVolume nodeConfig k x).WellFormed) ∧
  (∀ c : Config, c.Representable →
    (∀ f : Rat, ∃ fc : Imm, setCutoffNormalized c f = .flWrfc fc ∧
      (fc.toNat : Int) = (min (max f 0) 1 * c.cutoffMax).floor) ∧
    (∀ x : Int, ∃ fc : Imm, setCutoffRegister c x = .flWrfc fc ∧ (fc.toNat : Int) = min (max x 0) c.cutoffMax) ∧
    (∀ (k : Fin 3) (x : Int), ∃ val : BitVec 16, setVoiceVolume c k x = .flWrvvol (BitVec.ofNat 2 k) val ∧
      (val.toNat : Int) = min (max x 0) c.unityVolume ∧ (setVoiceVolume c k x).WellFormed)) ∧
  (∀ tri saw pul noi : Bool, ∃ m : BitVec 4, setWaveform tri saw pul noi = .wgWrwave m ∧
    m.getLsbD 0 = tri ∧ m.getLsbD 1 = saw ∧ m.getLsbD 2 = pul ∧ m.getLsbD 3 = noi) ∧
  (∀ x : Int, ∃ (m : BitVec 4) (d : BitVec 3), setRouting x = .flWrroute m ∧ (m.toNat : Int) = x % 16 ∧
    setMode x = .flWrmode d ∧ (d.toNat : Int) = x % 8) ∧
  (∀ b : Bool, setGate b = .egWrgate (if b then 1 else 0) ∧ setDither b = .flWrdither (if b then 1 else 0)) ∧
  (∀ m : ChipModel, setChipModelWg m = .wgWrmodel (if m = .modelA then 0 else 1) ∧
    setChipModelFl m = .flWrmodel (if m = .modelA then 0 else 1)) ∧
  (∀ x : Int, (sampleOf x).toInt = min (max x (-524288)) 524287)

/-- R238: normalised oscillator and filter results lie in [-1, 1), envelope results in [0, 1]; so they do on every
instance, at its own output widths (log entry 10). -/
def Obligations.NormalizedOutputsStayInRange : Prop :=
  (∀ v : Int, normalizeOscillator nodeConfig v = ((v : Rat) - 2048) / 2048 ∧
    normalizeEnvelope v = (v : Rat) / 255 ∧ normalizeFilter nodeConfig v = (v : Rat) / 32768) ∧
  (∀ v : Int, 0 ≤ v → v ≤ 255 → 0 ≤ normalizeEnvelope v ∧ normalizeEnvelope v ≤ 1) ∧
  (∀ (c : Config) (v : Int), 1 ≤ c.waveBits → 0 ≤ v → v < 2 ^ c.waveBits →
    -1 ≤ normalizeOscillator c v ∧ normalizeOscillator c v < 1) ∧
  (∀ (c : Config) (v : Int), -(2 ^ (c.satBits - 1)) ≤ v → v < 2 ^ (c.satBits - 1) →
    -1 ≤ normalizeFilter c v ∧ normalizeFilter c v < 1) ∧
  normalizeOscillator nodeConfig 2048 = 0 ∧ normalizeEnvelope 255 = 1 ∧ normalizeFilter nodeConfig (-32768) = -1
end

