-- ==== Sys2Proof/Laws/Config.lean ====
section
/-! SUPPORT. The node's configuration is well formed (`00_scope.md` R12). -/

namespace Sys2Proof.Machine

/-- The running sum never falls. -/
theorem w0Prefix_mono (m : ChipModel) {i j : Nat} (h : i ≤ j) : w0Prefix m i ≤ w0Prefix m j := by
  induction j with
  | zero => rw [Nat.le_zero.mp h]
  | succ j ih =>
    rcases Nat.lt_or_ge j i with hj | hj
    · rw [Nat.le_antisymm h hj]
    · exact le_trans (ih hj) (Nat.le_add_right _ _)

/-- Every rate period is at least one cycle and at most 31251. -/
theorem defaultRate_bounds (r : BitVec 4) : 1 ≤ defaultRate r ∧ defaultRate r ≤ 31251 := by
  revert r; decide

/-- Every breakpoint's period is at least one event. -/
theorem defaultExpBp_pos (v : BitVec 8) (p : Nat) (h : defaultExpBp v = some p) : 1 ≤ p := by
  unfold defaultExpBp at h
  split at h <;> simp at h <;> omega

theorem nodeConfig_wellFormed : nodeConfig.WellFormed where
  clockRate_pos := by decide
  lfsrReset_ne := by decide
  rate_pos r := (defaultRate_bounds r).1
  expBp_pos := defaultExpBp_pos
  expBp_zero := by decide
  expBp_top := by decide
  w0tab_mono m _ _ h _ := w0Prefix_mono m h
  filterChunk_pos := by decide
  filterChunk_le := by decide
  qBase_pos := by norm_num [nodeConfig]
  qResSpan_nonneg := by norm_num [nodeConfig]
  qBoostSpan_nonneg := by norm_num [nodeConfig]

theorem nodeConfig_representable : nodeConfig.Representable := by constructor <;> decide

end Sys2Proof.Machine
end

