-- ==== Sys2Proof/Laws/Encoding.lean ====
section
/-! SUPPORT. Cutting a word or an operand that was put together from its fields gives the fields back. -/

namespace Sys2Proof

@[simp] theorem opcodeOf_append (op : BitVec 8) (imm : Imm) : opcodeOf (op ++ imm) = op :=
  BitVec.extractLsb'_append_eq_left (a := op) (b := imm)

@[simp] theorem immOf_append (op : BitVec 8) (imm : Imm) : immOf (op ++ imm) = imm :=
  BitVec.extractLsb'_append_eq_right (a := op) (b := imm)

@[simp] theorem immM4_append (x : BitVec 20) (m : BitVec 4) : immM4 (x ++ m) = m :=
  BitVec.extractLsb'_append_eq_right (a := x) (b := m)

@[simp] theorem immM3_append (x : BitVec 21) (m : BitVec 3) : immM3 (x ++ m) = m :=
  BitVec.extractLsb'_append_eq_right (a := x) (b := m)

@[simp] theorem immB_append (x : BitVec 23) (b : BitVec 1) : immB (x ++ b) = b :=
  BitVec.extractLsb'_append_eq_right (a := x) (b := b)

/-- The sub-fields of format `V`. -/
theorem immV_append (x : BitVec 6) (k : BitVec 2) (val : BitVec 16) :
    immVk (x ++ (k ++ val)) = k ∧ immVval (x ++ (k ++ val)) = val := by
  constructor <;> apply BitVec.eq_of_getLsbD_eq <;> intro i hi <;>
    simp only [immVk, immVval, BitVec.getLsbD_extractLsb', BitVec.getLsbD_append, hi] <;>
    interval_cases i <;> simp

/-- The four sub-fields of format `A`. -/
theorem decodeA_append (x : BitVec 8) (att dec sus rel : BitVec 4) :
    decodeA (x ++ (att ++ (dec ++ (sus ++ rel)))) = .egWradsr att dec sus rel := by
  unfold decodeA
  congr 1 <;> apply BitVec.eq_of_getLsbD_eq <;> intro i hi <;>
    simp only [BitVec.getLsbD_extractLsb', BitVec.getLsbD_append, hi] <;>
    interval_cases i <;> simp

end Sys2Proof
end

