-- ==== Sys2Proof/Laws/Envelope.lean ====
section
/-! SUPPORT. One lemma per operation of the envelope cycle: what it can do. -/

namespace Sys2Proof.Machine

/-- `update_exp_period()` writes the exponential period alone, to the breakpoint's value where there is one. -/
theorem updateExpPeriod_eq (c : Config) (e : EnvelopeGenerator) :
    updateExpPeriod c e = { e with
      exponentialCounterPeriod := (c.expBp e.envelopeCounter).getD e.exponentialCounterPeriod } := by
  unfold updateExpPeriod
  cases c.expBp e.envelopeCounter <;> rfl

/-- An upward step: by one below 255, none at 255. -/
theorem stepUp_cases (c : Config) (e : EnvelopeGenerator) :
    (e.envelopeCounter.toNat < 255 ∧ stepUp c e = { e with
      envelopeCounter := e.envelopeCounter + 1
      exponentialCounterPeriod := (c.expBp (e.envelopeCounter + 1)).getD e.exponentialCounterPeriod }) ∨
    (e.envelopeCounter = 255#8 ∧ stepUp c e = e) := by
  by_cases h : e.envelopeCounter.toNat < 255
  · exact .inl ⟨h, by simp [stepUp, h, updateExpPeriod_eq]⟩
  · refine .inr ⟨BitVec.eq_of_toNat_eq ?_, by simp [stepUp, h]⟩
    have := e.envelopeCounter.isLt
    simp
    omega

/-- A downward step: by one above 0, none at 0. -/
theorem stepDown_cases (c : Config) (e : EnvelopeGenerator) :
    (0 < e.envelopeCounter.toNat ∧ stepDown c e = { e with
      envelopeCounter := e.envelopeCounter - 1
      exponentialCounterPeriod := (c.expBp (e.envelopeCounter - 1)).getD e.exponentialCounterPeriod }) ∨
    (e.envelopeCounter = 0#8 ∧ stepDown c e = e) := by
  by_cases h : 0 < e.envelopeCounter.toNat
  · exact .inl ⟨h, by simp [stepDown, h, updateExpPeriod_eq]⟩
  · refine .inr ⟨BitVec.eq_of_toNat_eq ?_, by simp [stepDown, h]⟩
    simp
    omega

/-- A level below 255 plus one. -/
theorem level_up_toNat {x : BitVec 8} (h : x.toNat < 255) : (x + 1).toNat = x.toNat + 1 := by
  simp [BitVec.toNat_add]
  omega

/-- A level above 0 minus one. -/
theorem level_down_toNat {x : BitVec 8} (h : 0 < x.toNat) : (x - 1).toNat = x.toNat - 1 := by
  have := x.isLt
  simp [BitVec.toNat_sub]
  omega

/-- One cycle: it pays a pending hold, or runs a rate event from a reloaded counter, or counts. -/
theorem egCycle_cases (c : Config) (e : EnvelopeGenerator) :
    (e.writeHold = true ∧ egCycle c e = { e with writeHold := false }) ∨
    (e.writeHold = false ∧ e.rateCounterPeriod ≤ e.rateCounter + 1 ∧
      egCycle c e = rateEvent c { e with rateCounter := 0 }) ∨
    (e.writeHold = false ∧ e.rateCounter + 1 < e.rateCounterPeriod ∧
      egCycle c e = { e with rateCounter := e.rateCounter + 1 }) := by
  cases hw : e.writeHold
  · by_cases h : e.rateCounterPeriod ≤ e.rateCounter + 1
    · exact .inr (.inl ⟨rfl, h, by simp [egCycle, hw, h]⟩)
    · exact .inr (.inr ⟨rfl, by omega, by simp [egCycle, hw, h]⟩)
  · exact .inl ⟨rfl, by simp [egCycle, hw]⟩

/-- The level of an exponential step: unchanged, or one less. -/
theorem expStep_cases (c : Config) (e : EnvelopeGenerator) :
    expStep c e = e ∨
    (e.holdZero = false ∧ ¬(e.state = .decay ∧ e.envelopeCounter = c.sustain e.sustain) ∧
      0 < e.envelopeCounter.toNat ∧ expStep c e = { e with
        envelopeCounter := e.envelopeCounter - 1
        exponentialCounterPeriod := (c.expBp (e.envelopeCounter - 1)).getD e.exponentialCounterPeriod }) := by
  unfold expStep
  cases hz : e.holdZero
  · by_cases hs : e.state = .decay ∧ e.envelopeCounter = c.sustain e.sustain
    · exact .inl (by simp [hs])
    · rcases stepDown_cases c e with ⟨h0, he⟩ | ⟨_, he⟩
      · exact .inr ⟨rfl, hs, h0, by simp [hs, he, hz]⟩
      · exact .inl (by simp [hs, he])
  · exact .inl (by simp)

/-- The end of an exponential event: nothing above 0; at 0 the hold, and Idle from Release. -/
theorem zeroCheck_cases (e : EnvelopeGenerator) :
    (e.envelopeCounter ≠ 0#8 ∧ zeroCheck e = e) ∨
    (e.envelopeCounter = 0#8 ∧ e.state = .release ∧ zeroCheck e = { e with holdZero := true, state := .idle }) ∨
    (e.envelopeCounter = 0#8 ∧ e.state ≠ .release ∧ zeroCheck e = { e with holdZero := true }) := by
  by_cases h : e.envelopeCounter = 0#8
  · by_cases hr : e.state = .release
    · exact .inr (.inl ⟨h, hr, by simp [zeroCheck, h, hr]⟩)
    · exact .inr (.inr ⟨h, hr, by simp [zeroCheck, h, hr]⟩)
  · exact .inl ⟨h, by simp [zeroCheck, h]⟩

/-- An event in Decay or Release: below the gate it counts; at the gate it steps and checks for 0. -/
theorem expEvent_cases (c : Config) (e : EnvelopeGenerator) :
    (e.exponentialCounter + 1 < e.exponentialCounterPeriod ∧
      expEvent c e = { e with exponentialCounter := e.exponentialCounter + 1 }) ∨
    (e.exponentialCounterPeriod ≤ e.exponentialCounter + 1 ∧
      expEvent c e = zeroCheck (expStep c { e with exponentialCounter := 0 })) := by
  by_cases h : e.exponentialCounterPeriod ≤ e.exponentialCounter + 1
  · exact .inr ⟨h, by simp [expEvent, h]⟩
  · exact .inl ⟨by omega, by simp [expEvent, h]⟩

/-- The top of an Attack: Decay with its period at 255, nothing below. -/
theorem enterDecayAtTop_cases (c : Config) (e : EnvelopeGenerator) :
    (e.envelopeCounter = 255#8 ∧
      enterDecayAtTop c e = { e with state := .decay, rateCounterPeriod := c.rate e.decay }) ∨
    (e.envelopeCounter ≠ 255#8 ∧ enterDecayAtTop c e = e) := by
  by_cases h : e.envelopeCounter = 255#8
  · exact .inl ⟨h, by simp [enterDecayAtTop, h]⟩
  · exact .inr ⟨h, by simp [enterDecayAtTop, h]⟩

end Sys2Proof.Machine
end

