-- ==== Sys2Proof/Laws/State.lean ====
section
/-! SUPPORT. One lemma per field per update of State, and the laws of one value per node. -/

namespace Sys2Proof.Machine

@[simp] theorem State.setCb_cbs (s : State) (b : ClockBridge) : (s.setCb b).cbs = s.cbs.set s.sel b := rfl
@[simp] theorem State.setCb_wg (s : State) (b : ClockBridge) : (s.setCb b).wg = s.wg := rfl
@[simp] theorem State.setCb_eg (s : State) (b : ClockBridge) : (s.setCb b).eg = s.eg := rfl
@[simp] theorem State.setCb_fl (s : State) (b : ClockBridge) : (s.setCb b).fl = s.fl := rfl
@[simp] theorem State.setCb_rsps (s : State) (b : ClockBridge) : (s.setCb b).rsps = s.rsps := rfl
@[simp] theorem State.setCb_ports (s : State) (b : ClockBridge) : (s.setCb b).ports = s.ports := rfl
@[simp] theorem State.setCb_sel (s : State) (b : ClockBridge) : (s.setCb b).sel = s.sel := rfl
@[simp] theorem State.setCb_stream (s : State) (b : ClockBridge) : (s.setCb b).stream = s.stream := rfl
@[simp] theorem State.setCb_draws (s : State) (b : ClockBridge) : (s.setCb b).draws = s.draws := rfl

@[simp] theorem State.setWg_cbs (s : State) (w : WaveformGenerator) : (s.setWg w).cbs = s.cbs := rfl
@[simp] theorem State.setWg_wg (s : State) (w : WaveformGenerator) : (s.setWg w).wg = w := rfl
@[simp] theorem State.setWg_eg (s : State) (w : WaveformGenerator) : (s.setWg w).eg = s.eg := rfl
@[simp] theorem State.setWg_fl (s : State) (w : WaveformGenerator) : (s.setWg w).fl = s.fl := rfl
@[simp] theorem State.setWg_rsps (s : State) (w : WaveformGenerator) : (s.setWg w).rsps = s.rsps := rfl
@[simp] theorem State.setWg_ports (s : State) (w : WaveformGenerator) : (s.setWg w).ports = s.ports := rfl
@[simp] theorem State.setWg_sel (s : State) (w : WaveformGenerator) : (s.setWg w).sel = s.sel := rfl
@[simp] theorem State.setWg_stream (s : State) (w : WaveformGenerator) : (s.setWg w).stream = s.stream := rfl
@[simp] theorem State.setWg_draws (s : State) (w : WaveformGenerator) : (s.setWg w).draws = s.draws := rfl

@[simp] theorem State.setEg_cbs (s : State) (e : EnvelopeGenerator) : (s.setEg e).cbs = s.cbs := rfl
@[simp] theorem State.setEg_wg (s : State) (e : EnvelopeGenerator) : (s.setEg e).wg = s.wg := rfl
@[simp] theorem State.setEg_eg (s : State) (e : EnvelopeGenerator) : (s.setEg e).eg = e := rfl
@[simp] theorem State.setEg_fl (s : State) (e : EnvelopeGenerator) : (s.setEg e).fl = s.fl := rfl
@[simp] theorem State.setEg_rsps (s : State) (e : EnvelopeGenerator) : (s.setEg e).rsps = s.rsps := rfl
@[simp] theorem State.setEg_ports (s : State) (e : EnvelopeGenerator) : (s.setEg e).ports = s.ports := rfl
@[simp] theorem State.setEg_sel (s : State) (e : EnvelopeGenerator) : (s.setEg e).sel = s.sel := rfl
@[simp] theorem State.setEg_stream (s : State) (e : EnvelopeGenerator) : (s.setEg e).stream = s.stream := rfl
@[simp] theorem State.setEg_draws (s : State) (e : EnvelopeGenerator) : (s.setEg e).draws = s.draws := rfl

@[simp] theorem State.setFl_cbs (s : State) (f : FilterUnit) : (s.setFl f).cbs = s.cbs := rfl
@[simp] theorem State.setFl_wg (s : State) (f : FilterUnit) : (s.setFl f).wg = s.wg := rfl
@[simp] theorem State.setFl_eg (s : State) (f : FilterUnit) : (s.setFl f).eg = s.eg := rfl
@[simp] theorem State.setFl_fl (s : State) (f : FilterUnit) : (s.setFl f).fl = f := rfl
@[simp] theorem State.setFl_rsps (s : State) (f : FilterUnit) : (s.setFl f).rsps = s.rsps := rfl
@[simp] theorem State.setFl_ports (s : State) (f : FilterUnit) : (s.setFl f).ports = s.ports := rfl
@[simp] theorem State.setFl_sel (s : State) (f : FilterUnit) : (s.setFl f).sel = s.sel := rfl
@[simp] theorem State.setFl_stream (s : State) (f : FilterUnit) : (s.setFl f).stream = s.stream := rfl
@[simp] theorem State.setFl_draws (s : State) (f : FilterUnit) : (s.setFl f).draws = s.draws := rfl

@[simp] theorem State.answer_cbs (s : State) (r : Option Word) : (s.answer r).cbs = s.cbs := rfl
@[simp] theorem State.answer_wg (s : State) (r : Option Word) : (s.answer r).wg = s.wg := rfl
@[simp] theorem State.answer_eg (s : State) (r : Option Word) : (s.answer r).eg = s.eg := rfl
@[simp] theorem State.answer_fl (s : State) (r : Option Word) : (s.answer r).fl = s.fl := rfl
@[simp] theorem State.answer_rsps (s : State) (r : Option Word) : (s.answer r).rsps = s.rsps.set s.sel r := rfl
@[simp] theorem State.answer_ports (s : State) (r : Option Word) : (s.answer r).ports = none := rfl
@[simp] theorem State.answer_sel (s : State) (r : Option Word) : (s.answer r).sel = s.sel := rfl
@[simp] theorem State.answer_stream (s : State) (r : Option Word) : (s.answer r).stream = s.stream := rfl
@[simp] theorem State.answer_draws (s : State) (r : Option Word) : (s.answer r).draws = s.draws := rfl

@[simp] theorem State.useDraw_cbs (s : State) : s.useDraw.cbs = s.cbs := rfl
@[simp] theorem State.useDraw_wg (s : State) : s.useDraw.wg = s.wg := rfl
@[simp] theorem State.useDraw_eg (s : State) : s.useDraw.eg = s.eg := rfl
@[simp] theorem State.useDraw_fl (s : State) : s.useDraw.fl = s.fl := rfl
@[simp] theorem State.useDraw_rsps (s : State) : s.useDraw.rsps = s.rsps := rfl
@[simp] theorem State.useDraw_ports (s : State) : s.useDraw.ports = s.ports := rfl
@[simp] theorem State.useDraw_sel (s : State) : s.useDraw.sel = s.sel := rfl
@[simp] theorem State.useDraw_stream (s : State) : s.useDraw.stream = s.stream := rfl
@[simp] theorem State.useDraw_draws (s : State) : s.useDraw.draws = s.draws + 1 := rfl

@[simp] theorem State.present_cbs (s : State) (k : NodeId) (p : Option SamplePorts) : (s.present k p).cbs = s.cbs := rfl
@[simp] theorem State.present_wg (s : State) (k : NodeId) (p : Option SamplePorts) : (s.present k p).wg = s.wg := rfl
@[simp] theorem State.present_eg (s : State) (k : NodeId) (p : Option SamplePorts) : (s.present k p).eg = s.eg := rfl
@[simp] theorem State.present_fl (s : State) (k : NodeId) (p : Option SamplePorts) : (s.present k p).fl = s.fl := rfl
@[simp] theorem State.present_rsps (s : State) (k : NodeId) (p : Option SamplePorts) : (s.present k p).rsps = s.rsps := rfl
@[simp] theorem State.present_ports (s : State) (k : NodeId) (p : Option SamplePorts) : (s.present k p).ports = if k = .fl then p else none := rfl
@[simp] theorem State.present_sel (s : State) (k : NodeId) (p : Option SamplePorts) : (s.present k p).sel = k := rfl
@[simp] theorem State.present_stream (s : State) (k : NodeId) (p : Option SamplePorts) : (s.present k p).stream = s.stream := rfl
@[simp] theorem State.present_draws (s : State) (k : NodeId) (p : Option SamplePorts) : (s.present k p).draws = s.draws := rfl

@[simp] theorem PerNode.get_set_self {α : Type} (p : PerNode α) (k : NodeId) (v : α) : (p.set k v).get k = v := by
  cases k <;> rfl

theorem PerNode.get_set_of_ne {α : Type} (p : PerNode α) {j k : NodeId} (v : α) (h : j ≠ k) :
    (p.set k v).get j = p.get j := by
  cases j <;> cases k <;> first | rfl | exact absurd rfl h

theorem PerNode.get_set {α : Type} (p : PerNode α) (j k : NodeId) (v : α) :
    (p.set k v).get j = if j = k then v else p.get j := by
  cases j <;> cases k <;> rfl

@[simp] theorem PerNode.set_set {α : Type} (p : PerNode α) (k : NodeId) (v w : α) : (p.set k v).set k w = p.set k w := by
  cases k <;> rfl

@[simp] theorem PerNode.set_get_self {α : Type} (p : PerNode α) (k : NodeId) : p.set k (p.get k) = p := by
  cases k <;> rfl

/-- Two collections that agree at every node are equal. -/
theorem PerNode.ext_get {α : Type} {p q : PerNode α} (h : ∀ k, p.get k = q.get k) : p = q := by
  cases p; cases q
  have h1 := h .wg; have h2 := h .eg; have h3 := h .fl
  simp only [PerNode.get] at h1 h2 h3
  rw [h1, h2, h3]

@[simp] theorem PerNode.wg_set_wg {α : Type} (p : PerNode α) (v : α) : (p.set .wg v).wg = v := rfl
@[simp] theorem PerNode.eg_set_eg {α : Type} (p : PerNode α) (v : α) : (p.set .eg v).eg = v := rfl
@[simp] theorem PerNode.fl_set_fl {α : Type} (p : PerNode α) (v : α) : (p.set .fl v).fl = v := rfl

@[simp] theorem State.cb_setCb (s : State) (b : ClockBridge) : (s.setCb b).cb = b := by simp [State.cb]
@[simp] theorem State.cb_answer (s : State) (r : Option Word) : (s.answer r).cb = s.cb := rfl
@[simp] theorem State.cb_setWg (s : State) (w : WaveformGenerator) : (s.setWg w).cb = s.cb := rfl
@[simp] theorem State.cb_setEg (s : State) (e : EnvelopeGenerator) : (s.setEg e).cb = s.cb := rfl
@[simp] theorem State.cb_setFl (s : State) (f : FilterUnit) : (s.setFl f).cb = s.cb := rfl

@[simp] theorem State.portValues_of_some {s : State} {p : SamplePorts} (h : s.ports = some p) : s.portValues = p := by
  simp [State.portValues, h]

@[simp] theorem State.life_cb (s : State) : s.life .cb = s.cb.life := rfl
@[simp] theorem State.life_wg (s : State) : s.life .wg = s.wg.life := rfl
@[simp] theorem State.life_eg (s : State) : s.life .eg = s.eg.life := rfl
@[simp] theorem State.life_fl (s : State) : s.life .fl = s.fl.life := rfl

@[simp] theorem State.hasUnit_cb (s : State) : s.hasUnit .cb = true := rfl

theorem State.hasUnit_wg_iff (s : State) : s.hasUnit .wg = true ↔ s.sel = .wg := by
  unfold State.hasUnit; cases s.sel <;> decide

theorem State.hasUnit_eg_iff (s : State) : s.hasUnit .eg = true ↔ s.sel = .eg := by
  unfold State.hasUnit; cases s.sel <;> decide

theorem State.hasUnit_fl_iff (s : State) : s.hasUnit .fl = true ↔ s.sel = .fl := by
  unfold State.hasUnit; cases s.sel <;> decide

end Sys2Proof.Machine
end

