-- ==== Sys2Proof/Laws/Ops.lean ====
section
/-! SUPPORT. What each shared operation can do, said once: the gates, the ends of a command, the operand forms. -/

namespace Sys2Proof.Machine

/-- A command to a unit the node contains goes on. -/
theorem requirePresent_of_hasUnit {u : UnitId} {s : State} (k : Result) (h : s.hasUnit u = true) :
    requirePresent u s k = k := by simp [requirePresent, h]

/-- A command to a unit the node does not contain is refused. -/
theorem requirePresent_of_absent {u : UnitId} {s : State} (k : Result) (h : s.hasUnit u = false) :
    requirePresent u s k = .refused .unitAbsent := by simp [requirePresent, h]

/-- A command to a unit that is present and `Ready` goes on. -/
theorem requireReady_of_accepts {u : UnitId} {s : State} (k : Result) (h : s.Accepts u) : requireReady u s k = k := by
  simp [requireReady, requirePresent, h.1, h.2]

/-- The gate refuses an absent unit before it looks at its life state. -/
theorem requireReady_of_absent {u : UnitId} {s : State} (k : Result) (h : s.hasUnit u = false) :
    requireReady u s k = .refused .unitAbsent := by simp [requireReady, requirePresent, h]

/-- The gate refuses an unconstructed unit. -/
theorem requireReady_of_unconstructed {u : UnitId} {s : State} (k : Result) (h : s.hasUnit u = true)
    (hl : s.life u = .unconstructed) : requireReady u s k = .refused .unitUnconstructed := by
  simp [requireReady, requirePresent, h, hl]

/-- The gate refuses a faulted unit. -/
theorem requireReady_of_faulted {u : UnitId} {s : State} (k : Result) (h : s.hasUnit u = true) {info : Imm}
    (hl : s.life u = .faulted info) : requireReady u s k = .refused .unitFaulted := by
  simp [requireReady, requirePresent, h, hl]

/-- What the presence gate can do: refuse, or be the rest of the command. -/
theorem requirePresent_cases (u : UnitId) (s : State) (k : Result) :
    (s.hasUnit u = true ∧ requirePresent u s k = k) ∨
      (s.hasUnit u = false ∧ requirePresent u s k = .refused .unitAbsent) := by
  cases h : s.hasUnit u
  · exact .inr ⟨rfl, requirePresent_of_absent k h⟩
  · exact .inl ⟨rfl, requirePresent_of_hasUnit k h⟩

/-- What the life gate can do: be the rest of the command, or one of three refusals. -/
theorem requireReady_cases (u : UnitId) (s : State) (k : Result) :
    (s.Accepts u ∧ requireReady u s k = k) ∨
      (s.hasUnit u = false ∧ requireReady u s k = .refused .unitAbsent) ∨
      (s.hasUnit u = true ∧ s.life u = .unconstructed ∧ requireReady u s k = .refused .unitUnconstructed) ∨
      (s.hasUnit u = true ∧ (∃ info, s.life u = .faulted info) ∧ requireReady u s k = .refused .unitFaulted) := by
  cases h : s.hasUnit u
  · exact .inr (.inl ⟨rfl, requireReady_of_absent k h⟩)
  · cases hl : s.life u with
    | unconstructed => exact .inr (.inr (.inl ⟨rfl, rfl, requireReady_of_unconstructed k h hl⟩))
    | ready => exact .inl ⟨⟨h, hl⟩, requireReady_of_accepts k ⟨h, hl⟩⟩
    | faulted info => exact .inr (.inr (.inr ⟨rfl, ⟨info, rfl⟩, requireReady_of_faulted k h hl⟩))

/-- A command that passed the presence gate found its unit in the node. -/
theorem requirePresent_next {u : UnitId} {s t : State} {k : Result} (h : requirePresent u s k = .next t) :
    s.hasUnit u = true ∧ k = .next t := by
  rcases requirePresent_cases u s k with ⟨hu, he⟩ | ⟨_, he⟩ <;> rw [he] at h
  · exact ⟨hu, h⟩
  · cases h

/-- A command that passed the gate found its unit ready. -/
theorem requireReady_next {u : UnitId} {s t : State} {k : Result} (h : requireReady u s k = .next t) :
    s.Accepts u ∧ k = .next t := by
  rcases requireReady_cases u s k with ⟨ha, he⟩ | ⟨_, he⟩ | ⟨_, _, he⟩ | ⟨_, _, he⟩ <;> rw [he] at h
  · exact ⟨ha, h⟩
  all_goals cases h

theorem State.accepts_wg_iff (s : State) : s.Accepts .wg ↔ s.sel = .wg ∧ s.wg.life = .ready := by
  simp [State.Accepts, State.hasUnit_wg_iff]

theorem State.accepts_eg_iff (s : State) : s.Accepts .eg ↔ s.sel = .eg ∧ s.eg.life = .ready := by
  simp [State.Accepts, State.hasUnit_eg_iff]

theorem State.accepts_fl_iff (s : State) : s.Accepts .fl ↔ s.sel = .fl ∧ s.fl.life = .ready := by
  simp [State.Accepts, State.hasUnit_fl_iff]

theorem State.accepts_cb_iff (s : State) : s.Accepts .cb ↔ (s.cbs.get s.sel).life = .ready := by
  simp [State.Accepts, State.cb]

@[simp] theorem done_eq_next (s t : State) : done s = .next t ↔ s.answer none = t := by simp [done]

/-- A result that fits a signed 32-bit integer stands on the port as it is. -/
theorem resultWord_of_fits {v : Int} (h : fitsSigned 32 v = true) : resultWord v = BitVec.ofInt 32 v := by
  simp [resultWord, h]

/-- So does a natural number below 2^31. -/
theorem resultWord_natCast {n : Nat} (h : n < 2 ^ 31) : resultWord n = BitVec.ofNat 32 n := by
  rw [resultWord_of_fits (by simp only [fitsSigned, Bool.and_eq_true, decide_eq_true_eq]; omega), BitVec.ofInt_natCast]

/-- Every command with a result answers with that result's word. -/
@[simp] theorem doneWith_eq_next (v : Int) (s t : State) :
    doneWith v s = .next t ↔ s.answer (some (resultWord v)) = t := by simp [doneWith]

/-- `ConfigFault` is a next state: the addressed ClockBridge `Faulted`, no result. -/
theorem raiseConfigFault_eq (info : Imm) (s : State) :
    raiseConfigFault info s = .next { s with
      cbs := s.cbs.set s.sel { s.cbs.get s.sel with life := .faulted info }
      rsps := s.rsps.set s.sel none
      ports := none } := rfl

/-- The end of `FL.CLOCK` is a next state just when the sub-steps ended. -/
theorem finishFilter_next {r : Except Fault FilterUnit} {s t : State} (h : finishFilter r s = .next t) :
    ∃ f, r = .ok f ∧ (s.setFl f).answer none = t := by
  cases r with
  | ok f => exact ⟨f, rfl, by simpa [finishFilter] using h⟩
  | error e => cases h

/-- A value that fits its register is stored as it is, any other as the maximum. -/
theorem clampTo_toNat {width max n : Nat} (v : BitVec n) (h : max < 2 ^ width) :
    (clampTo width max v).toNat = min v.toNat max := by
  simp only [clampTo, BitVec.toNat_ofNat]
  exact Nat.mod_eq_of_lt (lt_of_le_of_lt (Nat.min_le_right _ _) h)

/-- A clamped operand is at most its register's maximum. -/
theorem clampToMax_le (max : Nat) {n : Nat} (v : BitVec n) : clampToMax max v ≤ max := Nat.min_le_right _ _

/-- A voice index below 3 is a voice. -/
theorem voiceIndex_of_ne {k : BitVec 2} (h : k ≠ 3#2) : ∃ hk : k.toNat < 3, voiceIndex k = some ⟨k.toNat, hk⟩ := by
  have hk : k.toNat < 3 := by
    have h4 := k.isLt
    have h3 : k.toNat ≠ 3 := fun e => h (BitVec.eq_of_toNat_eq e)
    omega
  exact ⟨hk, by simp [voiceIndex, hk]⟩

/-- Voice index 3 is none. -/
theorem voiceIndex_three : voiceIndex 3#2 = none := by decide

/-- The saturated value lies in its width. -/
theorem sat_bounds {n : Nat} (x : Int) : -2 ^ (n - 1) ≤ sat n x ∧ sat n x ≤ 2 ^ (n - 1) - 1 := by
  have h : (0 : Int) < 2 ^ (n - 1) := by positivity
  unfold sat clampInt
  omega

/-- Fitting a signed register, as two comparisons. -/
theorem fitsSigned_iff {n : Nat} (x : Int) : fitsSigned n x = true ↔ -2 ^ (n - 1) ≤ x ∧ x ≤ 2 ^ (n - 1) - 1 := by
  simp [fitsSigned]

end Sys2Proof.Machine
end

