-- ==== Sys2Proof/Laws/Exec.lean ====
section
/-! SUPPORT. The shape of every next state of exec: what a command to each unit can write, said once. -/

namespace Sys2Proof.Machine

/-- The one update a command can make before it answers: the ClockBridge of the addressed node, or the generator the
node contains, or (for a free value) the model's counter. -/
inductive Update (i : Instr) (s : State) : State → Prop where
  | bridge (b : ClockBridge) (hu : i.unit = .cb) : Update i s (s.setCb b)
  | wave (w : WaveformGenerator) (hu : i.unit = .wg) (hk : s.sel = .wg) : Update i s (s.setWg w)
  | envelope (e : EnvelopeGenerator) (hu : i.unit = .eg) (hk : s.sel = .eg) : Update i s (s.setEg e)
  | filter (f : FilterUnit) (hu : i.unit = .fl) (hk : s.sel = .fl) : Update i s (s.setFl f)
  | none (h : i ∈ [Instr.wgOut, .egOut, .flOut]) (hk : s.sel = .wg ∨ s.sel = .eg ∨ s.sel = .fl) : Update i s s
  | draw (h : i = .wgOut) (hk : s.sel = .wg) : Update i s s.useDraw

/-- The interface's instance is the one at the default configuration. -/
@[simp] theorem execAt_nodeConfig (i : Instr) (s : State) : execAt nodeConfig i s = exec i s := by cases i <;> rfl

/-- On an instance of any configuration, every next state of a command is one update followed by an answer on the addressed node's response port. -/
theorem execAt_next_update {c : Config} {i : Instr} {s t : State} (h : execAt c i s = .next t) :
    ∃ u r, Update i s u ∧ t = u.answer r := by
  cases i <;> simp only [execAt] at h
  case cbConstruct sr =>
    obtain ⟨_, h⟩ := requirePresent_next h
    split at h
    · exact ⟨_, _, .bridge _ rfl, ((done_eq_next _ _).mp h).symm⟩
    · exact ⟨_, _, .bridge _ rfl, ((done_eq_next _ _).mp h).symm⟩
  case cbReset | cbTick =>
    obtain ⟨_, h⟩ := requireReady_next h
    exact ⟨_, _, .bridge _ rfl, by simpa [done, doneWith] using h.symm⟩
  case wgConstruct =>
    obtain ⟨hu, h⟩ := requirePresent_next h
    exact ⟨_, _, .wave _ rfl (s.hasUnit_wg_iff.mp hu), ((done_eq_next _ _).mp h).symm⟩
  case egConstruct =>
    obtain ⟨hu, h⟩ := requirePresent_next h
    exact ⟨_, _, .envelope _ rfl (s.hasUnit_eg_iff.mp hu), ((done_eq_next _ _).mp h).symm⟩
  case flConstruct =>
    obtain ⟨hu, h⟩ := requirePresent_next h
    exact ⟨_, _, .filter _ rfl (s.hasUnit_fl_iff.mp hu), ((done_eq_next _ _).mp h).symm⟩
  case wgReset | wgClock | wgWrfreq | wgWrpw | wgWrwave | wgWrmodel =>
    obtain ⟨ha, h⟩ := requireReady_next h
    exact ⟨_, _, .wave _ rfl (s.hasUnit_wg_iff.mp ha.1), ((done_eq_next _ _).mp h).symm⟩
  case egReset | egClock | egWradsr | egWrgate =>
    obtain ⟨ha, h⟩ := requireReady_next h
    exact ⟨_, _, .envelope _ rfl (s.hasUnit_eg_iff.mp ha.1), ((done_eq_next _ _).mp h).symm⟩
  case flReset | flWrfc | flWrres | flWrboost | flWrroute | flWrmode | flWrvol | flWrdither | flWrmodel =>
    obtain ⟨ha, h⟩ := requireReady_next h
    exact ⟨_, _, .filter _ rfl (s.hasUnit_fl_iff.mp ha.1), ((done_eq_next _ _).mp h).symm⟩
  case flWrvvol k val =>
    unfold flWrvvolAt at h
    split at h
    · obtain ⟨ha, h⟩ := requireReady_next h
      exact ⟨_, _, .filter _ rfl (s.hasUnit_fl_iff.mp ha.1), ((done_eq_next _ _).mp h).symm⟩
    · cases h
  case flClock n =>
    obtain ⟨ha, h⟩ := requireReady_next h
    obtain ⟨f, -, h⟩ := finishFilter_next h
    exact ⟨_, _, .filter f rfl (s.hasUnit_fl_iff.mp ha.1), h.symm⟩
  case wgOut =>
    obtain ⟨ha, h⟩ := requireReady_next h
    have hk := s.hasUnit_wg_iff.mp ha.1
    unfold answerWave at h
    split at h
    · exact ⟨_, _, .none (by simp) (.inl hk), ((doneWith_eq_next _ _ _).mp h).symm⟩
    · exact ⟨_, _, .draw rfl hk, ((doneWith_eq_next _ _ _).mp h).symm⟩
  case egOut =>
    obtain ⟨ha, h⟩ := requireReady_next h
    exact ⟨_, _, .none (by simp) (.inr (.inl (s.hasUnit_eg_iff.mp ha.1))), ((doneWith_eq_next _ _ _).mp h).symm⟩
  case flOut =>
    obtain ⟨ha, h⟩ := requireReady_next h
    exact ⟨_, _, .none (by simp) (.inr (.inr (s.hasUnit_fl_iff.mp ha.1))), ((doneWith_eq_next _ _ _).mp h).symm⟩

/-- The same of the interface's instance. -/
theorem exec_next_update {i : Instr} {s t : State} (h : exec i s = .next t) : ∃ u r, Update i s u ∧ t = u.answer r :=
  execAt_next_update (c := nodeConfig) (by rwa [execAt_nodeConfig])

/-- A command that answered a next state found its unit in the addressed node, and ready but for a `CONSTRUCT`. -/
theorem execAt_next_accepts {c : Config} {i : Instr} {s t : State} (h : execAt c i s = .next t) :
    s.hasUnit i.unit = true ∧ (i.isConstruct = false → s.life i.unit = .ready) := by
  cases i <;> simp only [execAt] at h
  case cbConstruct | wgConstruct | egConstruct | flConstruct =>
    obtain ⟨hu, -⟩ := requirePresent_next h
    exact ⟨hu, fun hc => by cases hc⟩
  case flWrvvol k val =>
    unfold flWrvvolAt at h
    split at h
    · obtain ⟨ha, -⟩ := requireReady_next h
      exact ⟨ha.1, fun _ => ha.2⟩
    · cases h
  all_goals
    obtain ⟨ha, -⟩ := requireReady_next h
    exact ⟨ha.1, fun _ => ha.2⟩

/-- The same of the interface's instance. -/
theorem exec_next_accepts {i : Instr} {s t : State} (h : exec i s = .next t) :
    s.hasUnit i.unit = true ∧ (i.isConstruct = false → s.life i.unit = .ready) :=
  execAt_next_accepts (c := nodeConfig) (by rwa [execAt_nodeConfig])

/-- No value on a sample port survives a command (`10_state.md` R58). -/
theorem execAt_next_ports {c : Config} {i : Instr} {s t : State} (h : execAt c i s = .next t) : t.ports = none := by
  obtain ⟨u, r, -, rfl⟩ := execAt_next_update h
  rfl

end Sys2Proof.Machine
end

