-- ==== Sys2Proof/Laws/Filter.lean ====
section
/-! SUPPORT. One lemma per operation of the filter's clock: what it can do. -/

namespace Sys2Proof.Machine

/-- A sub-step either stores the three new voltages, all in range, or is `FilterRange`. -/
theorem flSubstep_cases (c : Config) (dt : Nat) (f : FilterUnit) :
    (fitsSigned c.vBits (subVbp f dt) = true ∧ fitsSigned c.vBits (subVlp f dt) = true ∧
      fitsSigned c.vBits (subVhp f dt) = true ∧
      flSubstep c dt f = .ok { f with vbp := subVbp f dt, vlp := subVlp f dt, vhp := subVhp f dt }) ∨
    flSubstep c dt f = .error .filterRange := by
  unfold flSubstep
  split
  · rename_i h
    simp only [Bool.and_eq_true] at h
    exact .inl ⟨h.1.1, h.1.2, h.2, rfl⟩
  · exact .inr rfl

/-- What a sub-step that ended leaves: new voltages in range, all else as it was. -/
theorem flSubstep_ok {c : Config} {dt : Nat} {f g : FilterUnit} (h : flSubstep c dt f = .ok g) :
    g = { f with vbp := g.vbp, vlp := g.vlp, vhp := g.vhp } ∧ fitsSigned c.vBits g.vbp = true ∧
      fitsSigned c.vBits g.vlp = true ∧ fitsSigned c.vBits g.vhp = true := by
  rcases flSubstep_cases c dt f with ⟨h1, h2, h3, he⟩ | he <;> rw [he] at h
  · cases h
    exact ⟨rfl, h1, h2, h3⟩
  · cases h

/-- Sub-steps that ended leave all but the voltages as it was, and the voltages in range if they were. -/
theorem flIntegrate_ok {c : Config} {dts : List Nat} {f g : FilterUnit} (h : flIntegrate c dts f = .ok g) :
    g = { f with vbp := g.vbp, vlp := g.vlp, vhp := g.vhp } ∧
      (fitsSigned c.vBits f.vbp = true → fitsSigned c.vBits f.vlp = true → fitsSigned c.vBits f.vhp = true →
        fitsSigned c.vBits g.vbp = true ∧ fitsSigned c.vBits g.vlp = true ∧ fitsSigned c.vBits g.vhp = true) := by
  induction dts generalizing f with
  | nil =>
    cases h
    exact ⟨rfl, fun h1 h2 h3 => ⟨h1, h2, h3⟩⟩
  | cons dt dts ih =>
    simp only [flIntegrate] at h
    split at h
    · rename_i f' hf'
      obtain ⟨he, h1, h2, h3⟩ := flSubstep_ok hf'
      obtain ⟨hg, hr⟩ := ih h
      refine ⟨?_, fun _ _ _ => hr h1 h2 h3⟩
      rw [hg, he]
    · cases h

/-- The only fault of the sub-steps is `FilterRange`. -/
theorem flIntegrate_error {c : Config} {dts : List Nat} {f : FilterUnit} {e : Fault}
    (_ : flIntegrate c dts f = .error e) : e = .filterRange := by cases e; rfl

/-- A floor shift, bounded. -/
theorem asr_bounds {x lo hi : Int} {k : Nat} (h1 : lo * 2 ^ k ≤ x) (h2 : x < (hi + 1) * 2 ^ k) :
    lo ≤ asr x k ∧ asr x k ≤ hi := by
  have hp : (0 : Int) < 2 ^ k := by positivity
  exact ⟨(Int.le_ediv_iff_mul_le hp).mpr h1, Int.lt_add_one_iff.mp ((Int.ediv_lt_iff_lt_mul hp).mpr h2)⟩

/-- A floor shift of 0 is 0. -/
@[simp] theorem asr_zero (k : Nat) : asr 0 k = 0 := by simp [asr]

/-- What fits a register fits a wider one. -/
theorem fitsSigned_mono {m n : Nat} {x : Int} (h : m ≤ n) (hx : fitsSigned m x = true) : fitsSigned n x = true := by
  rw [fitsSigned_iff] at hx ⊢
  have hp : (2 : Int) ^ (m - 1) ≤ 2 ^ (n - 1) := pow_le_pow_right₀ (by norm_num) (by omega)
  omega

/-- 0 fits every signed register. -/
@[simp] theorem fitsSigned_zero (n : Nat) : fitsSigned n 0 = true := by
  rw [fitsSigned_iff]
  have hp : (0 : Int) < 2 ^ (n - 1) := by positivity
  omega

/-- A voice's term is a 13-bit value, at a volume in its range. -/
theorem voiceTerm_bounds (c : Config) (f : FilterUnit) (k : Fin 3) (v : Sample) (hv : f.voiceVolume[k] ≤ c.unityVolume) :
    -4096 ≤ voiceTerm c f k v ∧ voiceTerm c f k v ≤ 4095 := by
  have hd : 0 ≤ ditherOf c f k := by unfold ditherOf; split <;> omega
  have h1 := BitVec.le_toInt v
  have h13 := asr_bounds (x := min (v.toInt + ditherOf c f k) 524287) (lo := -4096) (hi := 4095) (k := 7)
    (by norm_num at h1 ⊢; omega) (by norm_num)
  unfold voiceTerm
  rcases Nat.eq_zero_or_pos c.unityVolume with h0 | hpos
  · simp [h0]
  · have hp : (0 : Int) < c.unityVolume := by exact_mod_cast hpos
    have hv' : (f.voiceVolume[k] : Int) ≤ c.unityVolume := by exact_mod_cast hv
    have hn : (0 : Int) ≤ f.voiceVolume[k] := Int.natCast_nonneg _
    exact ⟨(Int.le_ediv_iff_mul_le hp).mpr (by nlinarith [h13.1, h13.2]),
      Int.lt_add_one_iff.mp ((Int.ediv_lt_iff_lt_mul hp).mpr (by nlinarith [h13.1, h13.2]))⟩

/-- The external input's term is a 13-bit value. -/
theorem extTerm_bounds (v : Sample) : -4096 ≤ extTerm v ∧ extTerm v ≤ 4095 := by
  have h1 := BitVec.le_toInt v
  have h2 := BitVec.toInt_lt (x := v)
  norm_num at h1 h2
  exact asr_bounds (by norm_num; omega) (by norm_num; omega)

/-- Either sum of the input stage fits 15 bits (`10_state.md` R43). -/
theorem routedSum_fits (c : Config) (f : FilterUnit) (p : SamplePorts) (path : Bool)
    (hv : ∀ k : Fin 3, f.voiceVolume[k] ≤ c.unityVolume) : fitsSigned 15 (routedSum c f p path) = true := by
  have h0 := voiceTerm_bounds c f 0 p.v1 (hv 0)
  have h1 := voiceTerm_bounds c f 1 p.v2 (hv 1)
  have h2 := voiceTerm_bounds c f 2 p.v3 (hv 2)
  have h3 := extTerm_bounds p.ext
  rw [fitsSigned_iff]
  unfold routedSum
  norm_num
  split_ifs <;> omega

end Sys2Proof.Machine
end

