-- ==== Sys2Proof/Laws/PerInstr.lean ====
section
/-! SUPPORT. Per instruction: the word of an instruction carries its row's byte and its operand field. -/

namespace Sys2Proof.Laws.EncodingFields

/-- `cmd[31:24]` of the word is the row's byte, and `cmd[23:0]` its operand (`30_encoding.md` R80, R84). -/
def Statement (i : Instr) : Prop := opcodeOf (encode i) = opcodeByte i ∧ immOf (encode i) = encodeImm i

/-- One proof for every constructor: the word is put together from the two fields. -/
theorem fields_of_encode (i : Instr) : Statement i := ⟨by simp [encode], by simp [encode]⟩

theorem cbConstruct (sr : Imm) : Statement (.cbConstruct sr) := fields_of_encode _
theorem cbReset : Statement .cbReset := fields_of_encode _
theorem cbTick : Statement .cbTick := fields_of_encode _
theorem wgConstruct : Statement .wgConstruct := fields_of_encode _
theorem wgReset : Statement .wgReset := fields_of_encode _
theorem wgClock (n : Imm) : Statement (.wgClock n) := fields_of_encode _
theorem wgOut : Statement .wgOut := fields_of_encode _
theorem wgWrfreq (f : Imm) : Statement (.wgWrfreq f) := fields_of_encode _
theorem wgWrpw (p : Imm) : Statement (.wgWrpw p) := fields_of_encode _
theorem wgWrwave (mask : BitVec 4) : Statement (.wgWrwave mask) := fields_of_encode _
theorem wgWrmodel (bit : BitVec 1) : Statement (.wgWrmodel bit) := fields_of_encode _
theorem egConstruct : Statement .egConstruct := fields_of_encode _
theorem egReset : Statement .egReset := fields_of_encode _
theorem egClock (n : Imm) : Statement (.egClock n) := fields_of_encode _
theorem egOut : Statement .egOut := fields_of_encode _
theorem egWradsr (att dec sus rel : BitVec 4) : Statement (.egWradsr att dec sus rel) := fields_of_encode _
theorem egWrgate (bit : BitVec 1) : Statement (.egWrgate bit) := fields_of_encode _
theorem flConstruct : Statement .flConstruct := fields_of_encode _
theorem flReset : Statement .flReset := fields_of_encode _
theorem flClock (n : Imm) : Statement (.flClock n) := fields_of_encode _
theorem flOut : Statement .flOut := fields_of_encode _
theorem flWrfc (fc : Imm) : Statement (.flWrfc fc) := fields_of_encode _
theorem flWrres (res : Imm) : Statement (.flWrres res) := fields_of_encode _
theorem flWrboost (b : Imm) : Statement (.flWrboost b) := fields_of_encode _
theorem flWrroute (mask : BitVec 4) : Statement (.flWrroute mask) := fields_of_encode _
theorem flWrmode (mask : BitVec 3) : Statement (.flWrmode mask) := fields_of_encode _
theorem flWrvol (v : Imm) : Statement (.flWrvol v) := fields_of_encode _
theorem flWrvvol (k : BitVec 2) (val : BitVec 16) : Statement (.flWrvvol k val) := fields_of_encode _
theorem flWrdither (bit : BitVec 1) : Statement (.flWrdither bit) := fields_of_encode _
theorem flWrmodel (bit : BitVec 1) : Statement (.flWrmodel bit) := fields_of_encode _

end Sys2Proof.Laws.EncodingFields
end

