-- ==== Sys2Proof/Laws/Step.lean ====
section
/-! SUPPORT. What issuing a command, a step and `withFetchWord` can do. -/

namespace Sys2Proof.Machine

/-- A word that decodes executes on its node. -/
theorem issue_of_ok {c : Command} {i : Instr} (s : State) (h : decode c.word = .ok i) :
    issue c s = exec i (s.present c.node c.ports) := by simp [issue, h]

/-- A word that names no operation is refused. -/
theorem issue_of_error {c : Command} {e : DecodeError} (s : State) (h : decode c.word = .error e) :
    issue c s = .refused (refusalOf e) := by simp [issue, h]

/-- A command that answered a next state decoded and executed. -/
theorem issue_next {c : Command} {s t : State} (h : issue c s = .next t) :
    ∃ i, decode c.word = .ok i ∧ exec i (s.present c.node c.ports) = .next t := by
  cases hd : decode c.word with
  | ok i => exact ⟨i, rfl, by rwa [issue_of_ok s hd] at h⟩
  | error e =>
    rw [issue_of_error s hd] at h
    cases h

/-- On an instance of any configuration a command that answered a next state decoded and executed. -/
theorem issueAt_next {c : Config} {m : Command} {s t : State} (h : issueAt c m s = .next t) :
    ∃ i, decode m.word = .ok i ∧ execAt c i (s.present m.node m.ports) = .next t := by
  unfold issueAt at h
  split at h
  · rename_i i hd
    exact ⟨i, hd, h⟩
  · cases h

/-- Issuing at the defaults is issuing to the interface's instance. -/
@[simp] theorem issueAt_nodeConfig (m : Command) (s : State) : issueAt nodeConfig m s = issue m s := by
  simp only [issueAt, issue, execAt_nodeConfig]

/-- So is a step. -/
@[simp] theorem stepAt_nodeConfig (s : State) : stepAt nodeConfig s = step s := by
  simp only [stepAt, step, issueAt_nodeConfig]

/-- A step takes the first command of the stream. -/
theorem step_cons {s : State} {c : Command} {rest : List Command} (h : s.stream = c :: rest) :
    step s = issue c { s with stream := rest } := by simp [step, h]

/-- With no command a step holds the state. -/
theorem step_nil {s : State} (h : s.stream = []) : step s = .next s := by simp [step, h]

/-- A step after a next state: nothing to do, or a command that executed. -/
theorem step_next {s t : State} (h : step s = .next t) :
    (s.stream = [] ∧ t = s) ∨
      ∃ c rest, s.stream = c :: rest ∧ issue c { s with stream := rest } = .next t := by
  cases hs : s.stream with
  | nil =>
    rw [step_nil hs] at h
    cases h
    exact .inl ⟨rfl, rfl⟩
  | cons c rest => exact .inr ⟨c, rest, rfl, by rwa [step_cons hs] at h⟩

/-- The next step of a state with a word placed in it issues that word. -/
theorem step_withFetchWord (s : State) (nbits w : Nat) :
    step (s.withFetchWord nbits w) =
      issue (commandFor (tableWord nbits w) s) { bootFor (tableWord nbits w) s with stream := s.stream } := rfl

end Sys2Proof.Machine
end

