-- ==== Sys2Proof/Laws/Waveform.lean ====
section
/-! SUPPORT. What one cycle of WG and the end of `WG.OUT` can do. -/

namespace Sys2Proof.Machine

/-- A cycle writes the accumulator and the noise register alone. -/
theorem wgCycle_frame (c : Config) (w : WaveformGenerator) :
    wgCycle c w = { w with
      accumulator := (w.accumulator + w.frequency) % 2 ^ c.accBits, shiftRegister := (wgCycle c w).shiftRegister } := rfl

/-- A cycle steps the noise register once or leaves it. -/
theorem wgCycle_shiftRegister (c : Config) (w : WaveformGenerator) :
    (wgCycle c w).shiftRegister = lfsrStep c w.shiftRegister ∨ (wgCycle c w).shiftRegister = w.shiftRegister := by
  simp only [wgCycle]
  split
  · exact .inl rfl
  · exact .inr rfl

/-- A step of the noise register stays in its width. -/
theorem lfsrStep_lt (c : Config) (sr : Nat) : lfsrStep c sr < 2 ^ c.lfsrBits := by
  have hpos : 0 < c.lfsrBits := Nat.lt_of_le_of_lt (Nat.zero_le _) c.lfsrTaps.1.isLt
  refine Nat.or_lt_two_pow (Nat.mod_lt _ (by positivity)) (lt_of_lt_of_le (b := 2) ?_ ?_)
  · cases (sr.testBit c.lfsrTaps.1 ^^ sr.testBit c.lfsrTaps.2) <;> decide
  · exact Nat.le_self_pow hpos.ne' 2

/-- A clamped operand fits its register. -/
theorem clampToBits_lt (width : Nat) {n : Nat} (v : BitVec n) : clampToBits width v < 2 ^ width := by
  have : 0 < 2 ^ width := by positivity
  unfold clampToBits clampToMax
  omega

/-- Where the register has the field's width, the field is stored as it is. -/
@[simp] theorem clampToBits_self {n : Nat} (v : BitVec n) : clampToBits n v = v.toNat := by
  have := v.isLt
  unfold clampToBits clampToMax
  omega

/-- The end of `WG.OUT` is a next state: the value on the response port, or a free value and one draw used. -/
theorem answerWave_cases {bits : Nat} (o : WaveOut bits) (s : State) :
    (∃ v, o = .value v ∧ answerWave o s = .next (s.answer (some (resultWord v.toNat)))) ∨
    (o = .free ∧ answerWave o s = .next (s.useDraw.answer (some (resultWord (Config.draw bits s.draws).toNat)))) := by
  cases o with
  | value v => exact .inl ⟨v, rfl, rfl⟩
  | free => exact .inr ⟨rfl, rfl⟩

end Sys2Proof.Machine
end

