-- ==== Sys2Proof/Tests/Slice0.lean ====
section
/-! SUPPORT. Tests of the model on fixed values, taken from spec/95_test_vectors.md or worked out by hand from the
cited rules, and one witness for each hypothesis of a statement. -/

namespace Sys2Proof.Tests

open Sys2Proof.Machine

/-! ## Helpers -/

/-- The next state of a command, if it has one. -/
def nextOf (r : Result) : Option State :=
  match r with
  | .next s => some s
  | _ => none

/-- The name of the refusal of a command, if it is refused. -/
def refusalFrom (r : Result) : Option Refusal :=
  match r with
  | .refused e => some e
  | _ => none

/-- The fault of a command, if it ends in one. -/
def faultFrom (r : Result) : Option Fault :=
  match r with
  | .fault e => some e
  | _ => none

/-- Silence on the sample ports. -/
def silent : SamplePorts := ⟨0, 0, 0, 0⟩

/-- A `Ready` ClockBridge at 48000 Hz. -/
def bridge : ClockBridge := ⟨.ready, 48000, 0⟩

/-- A `Ready` WG, triangle selected. -/
def wave : WaveformGenerator := ⟨.ready, 0x123456, 0x020000, 0x800, 0b0001, .modelA, 0x7FFFF8⟩

/-- A `Ready` EG in Attack one cycle before a reload (`95_test_vectors.md` 3.3, after cycle 17). -/
def envelope : EnvelopeGenerator where
  life := .ready
  state := .attack
  holdZero := false
  envelopeCounter := 1
  rateCounter := 8
  rateCounterPeriod := 9
  exponentialCounter := 0
  exponentialCounterPeriod := 1
  attack := 0
  decay := 0
  sustain := 15
  release := 0
  gate := true
  writeHold := false

/-- A `Ready` FL without dither, at the cutoff constant of `95_test_vectors.md` 4.3. -/
def filter : FilterUnit where
  life := .ready
  voiceVolume := #v[256, 256, 256]
  ditherEnable := false
  vhp := 0
  vbp := 0
  vlp := 0
  vi := 0
  vnf := 0
  cutoff := 1024
  resonance := 0
  resonanceBoost := 0
  routing := 1
  mode := 1
  volume := 15
  chipModel := .modelA
  w0Int := 6588
  q1024 := 1448
  ditherIndex := 0

/-- Every unit `Ready`, node `k` addressed. -/
def ready (k : NodeId) : State where
  cbs := ⟨bridge, bridge, bridge⟩
  wg := wave
  eg := envelope
  fl := filter
  rsps := ⟨none, none, none⟩
  ports := none
  sel := k
  stream := []
  draws := 0

/-- The WG node ready with generator `w`. -/
def withWave (w : WaveformGenerator) : State := { ready .wg with wg := w }

/-- The EG node ready with generator `e`. -/
def withEnvelope (e : EnvelopeGenerator) : State := { ready .eg with eg := e }

/-- The FL node ready with generator `f` and values `p` on its ports. -/
def withFilter (f : FilterUnit) (p : SamplePorts) : State := { ready .fl with fl := f, ports := some p }

/-- The WG node ready with ClockBridge `b`. -/
def withBridge (b : ClockBridge) : State := { ready .wg with cbs := ⟨b, bridge, bridge⟩ }

/-- WG's response after a command that answered a next state. -/
def wgAnswer (r : Result) : Option (Option Word) := (nextOf r).map (·.rsps.wg)

/-- The three voltages of FL after a command. -/
def voltages (r : Result) : Option (Int × Int × Int) := (nextOf r).map fun t => (t.fl.vhp, t.fl.vbp, t.fl.vlp)

/-! ## WellFormed: the one check refuses the one kind of ill-formed term -/

theorem test_wellformed_refuses_voice_three :
    (Instr.flWrvvol 3#2 0#16).wellFormed = false ∧ (Instr.flWrvvol 2#2 0#16).wellFormed = true := by decide

/-! ## Decoding: words written out bit by bit from 30_encoding.md R80, R81, R84 -/

theorem test_decode_cb :
    decode (0b0000#4 ++ 0b0000#4 ++ 0b000000001011101110000000#24) = .ok (.cbConstruct 48000) ∧
    decode (0b0000#4 ++ 0b0001#4 ++ 0b000000000000000000000000#24) = .ok .cbReset ∧
    decode (0b0000#4 ++ 0b0010#4 ++ 0b101010111100110111101111#24) = .ok .cbTick := by decide

theorem test_decode_wg :
    decode (0b0001#4 ++ 0b0000#4 ++ 0#24) = .ok .wgConstruct ∧
    decode (0b0001#4 ++ 0b0001#4 ++ 0#24) = .ok .wgReset ∧
    decode (0b0001#4 ++ 0b0010#4 ++ 0b000000000000000000010100#24) = .ok (.wgClock 20) ∧
    decode (0b0001#4 ++ 0b0011#4 ++ 0#24) = .ok .wgOut ∧
    decode (0b0001#4 ++ 0b0100#4 ++ 0b000000000001110101000101#24) = .ok (.wgWrfreq 7493) ∧
    decode (0b0001#4 ++ 0b0101#4 ++ 0b000000000001000000000000#24) = .ok (.wgWrpw 4096) ∧
    decode (0b0001#4 ++ 0b0110#4 ++ 0b111111111111111111110010#24) = .ok (.wgWrwave 2) ∧
    decode (0b0001#4 ++ 0b0111#4 ++ 0b000000000000000000000010#24) = .ok (.wgWrmodel 0) := by decide

theorem test_decode_eg :
    decode (0b0010#4 ++ 0b0000#4 ++ 0#24) = .ok .egConstruct ∧
    decode (0b0010#4 ++ 0b0001#4 ++ 0#24) = .ok .egReset ∧
    decode (0b0010#4 ++ 0b0010#4 ++ 0b000000000000000000010000#24) = .ok (.egClock 16) ∧
    decode (0b0010#4 ++ 0b0011#4 ++ 0#24) = .ok .egOut ∧
    decode (0b0010#4 ++ 0b0100#4 ++ (0b11111111#8 ++ 0b1010#4 ++ 0b0101#4 ++ 0b1100#4 ++ 0b0011#4)) =
      .ok (.egWradsr 10 5 12 3) ∧
    decode (0b0010#4 ++ 0b0101#4 ++ 0b000000000000000000000011#24) = .ok (.egWrgate 1) := by decide

theorem test_decode_fl :
    decode (0b0011#4 ++ 0b0000#4 ++ 0#24) = .ok .flConstruct ∧
    decode (0b0011#4 ++ 0b0001#4 ++ 0#24) = .ok .flReset ∧
    decode (0b0011#4 ++ 0b0010#4 ++ 0b000000000000000000010101#24) = .ok (.flClock 21) ∧
    decode (0b0011#4 ++ 0b0011#4 ++ 0#24) = .ok .flOut ∧
    decode (0b0011#4 ++ 0b0100#4 ++ 0b000000000000011111111111#24) = .ok (.flWrfc 2047) ∧
    decode (0b0011#4 ++ 0b0101#4 ++ 0b000000000000000000001111#24) = .ok (.flWrres 15) ∧
    decode (0b0011#4 ++ 0b0110#4 ++ 0b000000000000000100000000#24) = .ok (.flWrboost 256) := by decide

theorem test_decode_fl_masks :
    decode (0b0011#4 ++ 0b0111#4 ++ 0b000000000000000000011111#24) = .ok (.flWrroute 15) ∧
    decode (0b0011#4 ++ 0b1000#4 ++ 0b000000000000000000001111#24) = .ok (.flWrmode 7) ∧
    decode (0b0011#4 ++ 0b1001#4 ++ 0b000000000000000000010000#24) = .ok (.flWrvol 16) ∧
    decode (0b0011#4 ++ 0b1010#4 ++ (0b111111#6 ++ 0b10#2 ++ 0b1111111111111111#16)) = .ok (.flWrvvol 2 65535) ∧
    decode (0b0011#4 ++ 0b1011#4 ++ 0b000000000000000000000000#24) = .ok (.flWrdither 0) ∧
    decode (0b0011#4 ++ 0b1100#4 ++ 0b000000000000000000000001#24) = .ok (.flWrmodel 1) := by decide

/-- The reserved words of `95_test_vectors.md` 6.1. -/
theorem test_decode_reserved :
    decode 0x03000000 = .error .reservedOp ∧ decode 0x18000000 = .error .reservedOp ∧
    decode 0x26000000 = .error .reservedOp ∧ decode 0x3D000000 = .error .reservedOp ∧
    decode 0x40000000 = .error .reservedUnit ∧ decode 0xFFFFFFFF = .error .reservedUnit ∧
    decode 0x3A030000 = .error .reservedVoice := by decide

/-- A table word reaches the decoder as it stands. -/
theorem test_table_word : decodeTableWord 32 0x12000014 = some (.wgClock 20) ∧ decodeTableWord 32 0x40000000 = none := by
  decide

/-! ## ClockBridge: 95_test_vectors.md section 5 -/

theorem test_cb_construct : (nextOf (exec (.cbConstruct 44100) (withBridge ⟨.faulted 0, 7, 3⟩))).map (·.cbs.wg) =
    some ⟨.ready, 44100, 0⟩ := by decide

theorem test_cb_construct_zero : (nextOf (exec (.cbConstruct 0) (withBridge ⟨.ready, 7, 3⟩))).map (·.cbs) =
    some ⟨⟨.faulted 0, 7, 3⟩, bridge, bridge⟩ := by decide

theorem test_cb_reset : (nextOf (exec .cbReset (withBridge ⟨.ready, 48000, 27744⟩))).map (·.cbs.wg) =
    some ⟨.ready, 48000, 0⟩ := by decide

/-- The second tick at 48000 Hz: 21 cycles, residue 2496. -/
theorem test_cb_tick : (nextOf (exec .cbTick (withBridge ⟨.ready, 48000, 25248⟩))).map (fun t => (t.rsps.wg, t.cbs.wg)) =
    some (some 21#32, ⟨.ready, 48000, 2496⟩) := by decide

/-- The ends of the port's range are the results themselves (`30_encoding.md` R88). -/
theorem test_result_word : resultWord 2147483647 = 0x7FFFFFFF ∧ resultWord (-2147483648) = 0x80000000 := by decide

/-- A rate above `CLOCK_RATE`: 0 cycles. -/
theorem test_cb_tick_fast : (nextOf (exec .cbTick (withBridge ⟨.ready, 2000000, 0⟩))).map (fun t => (t.rsps.wg, t.cbs.wg)) =
    some (some 0#32, ⟨.ready, 2000000, 985248⟩) := by decide

/-! ## WaveformGenerator: section 2 -/

theorem test_wg_construct : (nextOf (exec .wgConstruct (ready .wg))).map (fun t => (t.wg.accumulator, t.wg.shiftRegister)) =
    some (0, 0x7FFFF8) := by decide

theorem test_wg_reset : (nextOf (exec .wgReset (withWave { wave with shiftRegister := 5 }))).map
    (fun t => (t.wg.accumulator, t.wg.shiftRegister, t.wg.frequency)) = some (0, 0x7FFFF8, 0x020000) := by decide

/-- Wrap through 2^24. -/
theorem test_wg_clock_wraps : (nextOf (exec (.wgClock 1) (withWave { wave with
    accumulator := 0xFFFFF0, frequency := 0x20 }))).map (fun t => (t.wg.accumulator, t.wg.shiftRegister)) =
    some (0x000010, 0x7FFFF8) := by decide

/-- Bit 19 toggles every cycle: two steps in four cycles. -/
theorem test_wg_clock_noise : (nextOf (exec (.wgClock 4) (withWave { wave with
    accumulator := 0, frequency := 0x080000 }))).map (fun t => (t.wg.accumulator, t.wg.shiftRegister)) =
    some (0x200000, 0x7FFFE0) := by decide

/-- Table 2.2, row 0xABCDEF: triangle, sawtooth, pulse. -/
theorem test_wg_out_table :
    (triangle nodeConfig 0xABCDEF).toNat = 0xA86 ∧ (sawtooth nodeConfig 0xABCDEF).toNat = 0xABC ∧
    (pulse nodeConfig 0xABCDEF 0x800).toNat = 0xFFF ∧ (triangle nodeConfig 0xC00000).toNat = 0x7FF ∧
    (triangle nodeConfig 0x800800).toNat = 0xFFE ∧ (pulse nodeConfig 0x7FFFFF 0x800).toNat = 0 := by decide

theorem test_wg_out_triangle : wgAnswer (exec .wgOut (withWave wave)) = some (some 0x246) := by decide

/-- Table 2.3, k = 18 and k = 29. -/
theorem test_wg_noise_table : (noise nodeConfig 0x600007).toNat = 0x810 ∧ (noise nodeConfig 0x003E00).toNat = 0x180 := by decide

/-- Table 2.3, k = 15 to 16: bit 22 XOR bit 17 enters at the bottom. -/
theorem test_wg_lfsr_table : lfsrStep nodeConfig 0x7C0000 = 0x780001 ∧ lfsrStep nodeConfig 0x40000F = 0x00001F := by
  decide

theorem test_wg_wrfreq : (nextOf (exec (.wgWrfreq 16777215) (ready .wg))).map (·.wg.frequency) = some 16777215 := by decide

/-- Clamped, not truncated. -/
theorem test_wg_wrpw : (nextOf (exec (.wgWrpw 4096) (ready .wg))).map (·.wg.pulseWidth) = some 4095 := by decide

theorem test_wg_wrwave : (nextOf (exec (.wgWrwave 2) (ready .wg))).map (·.wg.waveformSelect) = some 2 := by decide

theorem test_wg_wrmodel : (nextOf (exec (.wgWrmodel 1) (ready .wg))).map (·.wg.chipModel) = some .modelB := by decide

/-! ## EnvelopeGenerator: section 3 -/

theorem test_eg_construct : (nextOf (exec .egConstruct (ready .eg))).map (·.eg) = some
    ⟨.ready, .idle, true, 0, 0, 9, 0, 1, 0, 0, 0, 0, false, false⟩ := by decide

/-- Section 3.2, last row: ADSR kept, period of `RATE[1]`. -/
theorem test_eg_reset : (nextOf (exec .egReset (withEnvelope { envelope with sustain := 10, release := 1 }))).map (·.eg) =
    some ⟨.ready, .idle, true, 0, 0, 32, 0, 1, 0, 0, 10, 1, false, false⟩ := by decide

/-- Section 3.3: cycle 18 steps the level. -/
theorem test_eg_clock : (nextOf (exec (.egClock 1) (ready .eg))).map (fun t => (t.eg.envelopeCounter, t.eg.rateCounter)) =
    some (2, 0) := by decide

/-- Section 3.3: with the hold armed, cycle 18 only pays it and cycle 19 steps. -/
theorem test_eg_delay_bug :
    (nextOf (exec (.egClock 1) (withEnvelope { envelope with writeHold := true }))).map (·.eg) = some envelope ∧
    (nextOf (exec (.egClock 2) (withEnvelope { envelope with writeHold := true }))).map (·.eg.envelopeCounter) = some 2 := by
  decide

theorem test_eg_out : (nextOf (exec .egOut (ready .eg))).map (·.rsps.eg) = some (some 1) := by decide

/-- Section 3.3: armed at 8 + 1 >= 9 by the old period, though the new one is 32; not armed at 7. -/
theorem test_eg_wradsr :
    (nextOf (exec (.egWradsr 1 0 15 0) (ready .eg))).map (fun t => (t.eg.writeHold, t.eg.rateCounterPeriod)) =
      some (true, 32) ∧
    (nextOf (exec (.egWradsr 0 0 15 0) (withEnvelope { envelope with rateCounter := 7 }))).map (·.eg.writeHold) =
      some false := by decide

/-- Section 3.1: the fall enters Release with its period, the counters kept. -/
theorem test_eg_wrgate_fall : (nextOf (exec (.egWrgate 0) (withEnvelope { envelope with release := 1 }))).map
    (fun t => (t.eg.state, t.eg.rateCounterPeriod, t.eg.rateCounter, t.eg.gate, t.eg.writeHold)) =
    some (.release, 32, 8, false, false) := by decide

/-- Section 3.2: not an edge in Attack. -/
theorem test_eg_wrgate_same : (nextOf (exec (.egWrgate 1) (ready .eg))).map (·.eg) = some envelope := by decide

/-- Section 3.2: Release at level 0 goes to Idle in one event. -/
theorem test_eg_release_at_zero : (nextOf (exec (.egClock 1) (withEnvelope { envelope with
    state := .release, gate := false, envelopeCounter := 0 }))).map
    (fun t => (t.eg.state, t.eg.envelopeCounter, t.eg.holdZero)) = some (.idle, 0, true) := by decide

/-- Section 3.1, cycle 2295: the event that reaches 255 enters Decay. -/
theorem test_eg_top : (nextOf (exec (.egClock 1) (withEnvelope { envelope with envelopeCounter := 254 }))).map
    (fun t => (t.eg.state, t.eg.envelopeCounter, t.eg.exponentialCounterPeriod)) = some (.decay, 255, 1) := by decide

/-! ## Filter: section 4 -/

theorem test_fl_construct : (nextOf (exec .flConstruct (ready .fl))).map
    (fun t => (t.fl.voiceVolume, t.fl.ditherEnable, t.fl.q1024, t.fl.volume)) = some (#v[256, 256, 256], true, 1448, 0) := by
  decide +kernel

theorem test_fl_reset : (nextOf (exec .flReset (withFilter { filter with vhp := 5, vi := 3, ditherIndex := 9 } silent))).map
    (·.fl) = some filter := by decide

/-- Section 4.3: one `FL.CLOCK 20` from zero. -/
theorem test_fl_clock : voltages (exec (.flClock 20) (withFilter filter ⟨262144, 0, 0, 0⟩)) = some (-1833, 151, -2) := by
  decide

/-- Section 4.3, the sign check: after the third `FL.CLOCK 8` of the negative input. -/
theorem test_fl_clock_negative : voltages (exec (.flClock 8)
    (withFilter { filter with vhp := 1903, vbp := -102, vlp := 0 } ⟨BitVec.ofInt 20 (-262144), 0, 0, 0⟩)) =
    some (1763, -197, 6) := by decide

/-- Section 4.1, first row: the terms 781, -391, 96, -8 all on the bypass. -/
theorem test_fl_input_stage : (nextOf (exec (.flClock 0) (withFilter { filter with routing := 0 }
    ⟨100000, BitVec.ofInt 20 (-50000), 12345, BitVec.ofInt 20 (-1000)⟩))).map
    (fun t => (t.fl.vi, t.fl.vnf, t.fl.ditherIndex)) = some (0, 478, 1) := by decide

/-- Section 4.1, fourth row: voice scalars 128, 256, 0. -/
theorem test_fl_voice_scalars : (nextOf (exec (.flClock 0) (withFilter { filter with
    routing := 0, voiceVolume := #v[128, 256, 0] } ⟨100000, BitVec.ofInt 20 (-50000), 12345, 0⟩))).map (·.fl.vnf) =
    some (-1) := by decide

/-- By hand from R187, R188: a voltage at the bottom of its register pushed below it. -/
theorem test_fl_range : faultFrom (exec (.flClock 8) (withFilter { filter with vhp := 2147483647, vbp := -2147483648 }
    silent)) = some .filterRange := by decide

/-- Section 4.1: the saturated rows, before the offset of the mixer. -/
theorem test_fl_saturates : sat 16 245700 = 32767 ∧ sat 16 (-245760) = -32768 ∧ sat 16 7170 = 7170 := by decide

/-- With volume 0 the output is 0 whatever the offset (section 4.1, third row). -/
theorem test_fl_out_silent : ∃ t, exec .flOut (withFilter { filter with volume := 0, vnf := 478 } silent) = .next t ∧
    t.rsps.fl = some 0 := by
  refine ⟨_, rfl, ?_⟩
  have h : flOutput nodeConfig { filter with volume := 0, vnf := 478 } = 0 := by
    simp [flOutput, sat, clampInt, nodeConfig]
  show some (resultWord (flOutput nodeConfig { filter with volume := 0, vnf := 478 })) = some 0
  rw [h]
  rfl

theorem test_fl_wrfc : (nextOf (exec (.flWrfc 2048) (ready .fl))).map (·.fl.cutoff) = some 2047 := by decide

/-- Section 4.2. -/
theorem test_fl_wrres : (nextOf (exec (.flWrres 16) (ready .fl))).map (fun t => (t.fl.resonance, t.fl.q1024)) =
    some (15, 599) := by decide +kernel

/-- Section 4.2. -/
theorem test_fl_wrboost : (nextOf (exec (.flWrboost 256) (ready .fl))).map (fun t => (t.fl.resonanceBoost, t.fl.q1024)) =
    some (255, 256) := by decide +kernel

theorem test_fl_wrroute : (nextOf (exec (.flWrroute 6) (ready .fl))).map (·.fl.routing) = some 6 := by decide

theorem test_fl_wrmode : (nextOf (exec (.flWrmode 4) (ready .fl))).map (·.fl.mode) = some 4 := by decide

theorem test_fl_wrvol : (nextOf (exec (.flWrvol 16) (ready .fl))).map (·.fl.volume) = some 15 := by decide

theorem test_fl_wrvvol : (nextOf (exec (.flWrvvol 2 65535) (withFilter { filter with voiceVolume := #v[1, 2, 3] } silent))).map
    (·.fl.voiceVolume) = some #v[1, 2, 256] := by decide

theorem test_fl_wrvvol_three : refusalFrom (exec (.flWrvvol 3 0) (ready .fl)) = some .reservedVoice := by decide

theorem test_fl_wrdither : (nextOf (exec (.flWrdither 1) (ready .fl))).map (·.fl.ditherEnable) = some true := by decide

theorem test_fl_wrmodel : (nextOf (exec (.flWrmodel 1) (ready .fl))).map (·.fl.chipModel) = some .modelB := by decide

/-! ## The machine -/

/-- `95_test_vectors.md` 6.1: an envelope word sent to the WG node. -/
theorem test_absent_unit : refusalFrom (step { ready .eg with stream := [⟨.wg, 0x22000010, silent⟩] }) =
    some .unitAbsent := by decide

/-- Program P5: after the fault `CB.TICK` is refused. -/
theorem test_faulted_tick : refusalFrom (exec .cbTick (withBridge ⟨.faulted 0, 48000, 0⟩)) = some .unitFaulted := by decide

/-- A word placed by `withFetchWord` is run by the next step, on the node that has its unit. -/
theorem test_fetch_word : (nextOf (step (State.reset.withFetchWord 32 0x20000000))).map (fun t => (t.eg.life, t.sel, t.stream)) =
    some (.ready, .eg, []) := by decide

/-- From power-on a bare command but `CONSTRUCT` is refused (`60_exceptions.md` R253); placed by `withFetchWord`, it
runs on a unit the host has constructed. -/
theorem test_power_on_refuses : refusalFrom (step { State.reset with stream := [⟨.wg, 0x13000000, silent⟩] }) =
    some .unitUnconstructed ∧ wgAnswer (step (State.reset.withFetchWord 32 0x13000000)) = some (some 2048) := by decide

/-- Every row of the opcode table, operand 0, runs as a first command placed by `withFetchWord`. -/
theorem test_fetch_word_every_row : ∀ op ∈ [0x00, 0x01, 0x02, 0x10, 0x11, 0x12, 0x13, 0x14, 0x15, 0x16, 0x17, 0x20, 0x21,
    0x22, 0x23, 0x24, 0x25, 0x30, 0x31, 0x32, 0x33, 0x34, 0x35, 0x36, 0x37, 0x38, 0x39, 0x3A, 0x3B, 0x3C],
    (nextOf (step (State.reset.withFetchWord 32 (op * 2 ^ 24)))).isSome = true := by decide

/-- Another instance (`00_scope.md` R11): an edge on a reload cycle arms the hold where `DELAY_BUG_ON_GATE` is set
(`41_envelope.md` R137). -/
theorem test_other_gate : (nextOf (execAt { nodeConfig with delayBugOnGate := true } (.egWrgate 0) (ready .eg))).map
    (fun t => (t.eg.state, t.eg.writeHold)) = some (.release, true) := by decide

/-- Another instance: section 4.3, one `FL.CLOCK 20` from zero with `FILTER_CHUNK` = 1. -/
theorem test_other_filter : voltages (execAt { nodeConfig with filterChunk := 1 } (.flClock 20)
    (withFilter filter ⟨262144, 0, 0, 0⟩)) = some (-1714, 232, -6) := by decide

/-- No value on a sample port survives a command (`10_state.md` R58). -/
theorem test_ports_do_not_survive : (nextOf (exec (.flClock 1) (withFilter filter ⟨262144, 0, 0, 0⟩))).map (·.ports) =
    some none := by decide

/-- By hand from R226, R230, R236: a filter input beyond 20 bits, the full selector, masks of a negative number. -/
theorem test_host_conversions : (sampleOf 600000).toInt = 524287 ∧ (sampleOf (-600000)).toInt = -524288 ∧
    setWaveform true false false true = .wgWrwave 9 ∧ setRouting (-3) = .flWrroute 13 ∧ setMode 12 = .flWrmode 4 := by
  decide

/-- Program P1, sample 1: tick, clock and output of a block of one sample. -/
theorem test_block_of_p1 : (match processBlock nodeConfig .wg 1 [] (fun _ => silent) { withWave { wave with
      accumulator := 0x024964, frequency := 7493, waveformSelect := 2 } with
      cbs := ⟨⟨.ready, 48000, 25248⟩, bridge, bridge⟩ } with
    | .next (t, out) => some (out, t.wg.accumulator, t.cbs.wg.resNum)
    | _ => none) = some ([some 75], 0x04B00D, 2496) := by decide

/-- `95_test_vectors.md` 6.2. -/
theorem test_setters :
    setFrequencyHz nodeConfig 440 = .wgWrfreq 7493 ∧ setFrequencyHz nodeConfig (-5) = .wgWrfreq 2 ∧
    setFrequencyHz nodeConfig (1308 / 5) = .wgWrfreq 4455 ∧ setPulseWidth nodeConfig (1 / 2) = .wgWrpw 2047 ∧
    setPulseWidth nodeConfig (-1) = .wgWrpw 0 ∧ setADSR 20 (-3) 10 1 = .egWradsr 15 0 10 1 ∧
    setCutoffRegister nodeConfig 3000 = .flWrfc 2047 ∧ setResonance (1 / 2) = .flWrres 7 ∧ setVolume 99 = .flWrvol 15 ∧
    setWaveform false true false false = .wgWrwave 2 ∧ setRouting (-1) = .flWrroute 15 := by decide +kernel

/-! ## An instance of other widths, by hand from the rules of `40_waveform.md` and `30_encoding.md` R82 -/

/-- A 16-bit accumulator, an 8-bit pulse width, a 10-bit output, a noise register of 5 bits with taps 4 and 2, another
rate table, a largest cutoff of 1023, a unity volume of 100, sub-steps of one cycle and voltages of 15 bits. -/
def otherConfig : Config := { nodeConfig with
  accBits := 16
  pwBits := 8
  waveBits := 10
  lfsrBits := 5
  noiseClockBit := ⟨11, by decide⟩
  lfsrTaps := (⟨4, by decide⟩, ⟨2, by decide⟩)
  lfsrReset := 0x1C#5
  noiseOutMap := Vector.ofFn fun k : Fin 8 => ⟨k.val % 5, by omega⟩
  midLevel := 512#10
  comb := fun _ _ i => BitVec.ofNat 10 i.toNat
  rate := fun _ => 3
  cutoffMax := 1023
  unityVolume := 100
  filterChunk := 1
  vBits := 15 }

theorem other_wellFormed : otherConfig.WellFormed :=
  { nodeConfig_wellFormed with
    lfsrReset_ne := by decide
    rate_pos := fun _ => (by decide : 1 ≤ 3)
    w0tab_mono := fun m _ _ h _ => w0Prefix_mono m h
    filterChunk_pos := by decide
    filterChunk_le := by decide }

theorem other_representable : otherConfig.Representable := by constructor <;> decide

/-- The accumulator wraps at 2^16, and bit 11 clocks the 5-bit noise register: `11100` to `11000`. -/
theorem test_other_clock :
    (nextOf (execAt otherConfig (.wgClock 1) (withWave { wave with accumulator := 0xF7F0, frequency := 0x1000 }))).map
      (fun t => t.wg.accumulator) = some 0x07F0 ∧
    (nextOf (execAt otherConfig (.wgClock 1) (withWave { wave with
      accumulator := 0x07F0, frequency := 0x0020, shiftRegister := 0x1C }))).map
      (fun t => (t.wg.accumulator, t.wg.shiftRegister)) = some (0x0810, 0x18) := by decide

/-- The outputs are the top 10 bits, and the pulse compares the top 8. -/
theorem test_other_outputs :
    (sawtooth otherConfig 0xABCD).toNat = 0x2AF ∧ (triangle otherConfig 0xABCD).toNat = 0x2A1 ∧
    (pulse otherConfig 0xABCD 0xAB).toNat = 0x3FF ∧ (pulse otherConfig 0xABCD 0xAC).toNat = 0 ∧
    (noise otherConfig 0x1).toNat = 0x210 := by decide

/-- The numeric writes clamp to the registers' maxima. -/
theorem test_other_writes :
    (nextOf (execAt otherConfig (.wgWrfreq 0x10000) (ready .wg))).map (·.wg.frequency) = some 0xFFFF ∧
    (nextOf (execAt otherConfig (.wgWrpw 256) (ready .wg))).map (·.wg.pulseWidth) = some 255 ∧
    (nextOf (execAt otherConfig (.flWrfc 1024) (ready .fl))).map (·.fl.cutoff) = some 1023 ∧
    (nextOf (execAt otherConfig (.flWrvvol 1 101) (ready .fl))).map (·.fl.voiceVolume) = some #v[256, 100, 256] ∧
    setCutoffRegister otherConfig 3000 = .flWrfc 1023 ∧ setVoiceVolume otherConfig 0 300 = .flWrvvol 0 100 := by decide

/-- A voice at a quarter of a unity of 100: `floor(floor(-50000 / 128) * 25 / 100)`. -/
theorem test_other_volume : voiceTerm otherConfig { filter with voiceVolume := #v[25, 0, 0] } 0 (BitVec.ofInt 20 (-50000)) =
    -98 := by decide

/-! ## Good runs (`70_reset_and_hazards.md` R296) -/

/-- A fault that was repaired still makes a run bad once a command other than `CONSTRUCT` follows on its node. -/
theorem test_good_run :
    goodRun nodeConfig [⟨.wg, 0x00000000, none⟩, ⟨.wg, 0x0000BB80, none⟩, ⟨.wg, 0x10000000, none⟩] State.reset = true ∧
    goodRun nodeConfig [⟨.wg, 0x00000000, none⟩, ⟨.wg, 0x0000BB80, none⟩, ⟨.wg, 0x02000000, none⟩] State.reset = false ∧
    goodRun nodeConfig [⟨.wg, 0x00000000, none⟩, ⟨.eg, 0x0000BB80, none⟩, ⟨.eg, 0x02000000, none⟩] State.reset = true := by decide

/-- The instance decides: a voltage of 20000 leaves 15 bits and not 32, so the same run is bad on the one and good on the
other (`42_filter.md` R188). -/
theorem test_good_run_of_an_instance :
    goodRun nodeConfig [⟨.fl, 0x32000001, some silent⟩] (withFilter { filter with vbp := 20000 } silent) = true ∧
    goodRun otherConfig [⟨.fl, 0x32000001, some silent⟩] (withFilter { filter with vbp := 20000 } silent) = false := by
  decide

/-! ## Witnesses: for each statement with hypotheses, a state and operands that meet all of them -/

/-- EncodedInstructionIsReadBack. -/
theorem test_witness_EncodedInstructionIsReadBack :
    (Instr.flWrvvol 2#2 65535#16).WellFormed ∧ (Instr.egWradsr 15 0 10 1).WellFormed := by decide

/-- DecodedInstructionsAreWellFormed. -/
theorem test_witness_DecodedInstructionsAreWellFormed : decode 0x3AFEFFFF = .ok (.flWrvvol 2 65535) := by decide

/-- IgnoredBitsDoNotAffectDecoding: two different words for each of its clauses. -/
theorem test_witness_IgnoredBitsDoNotAffectDecoding :
    let pairs : List (Word × Word × Nat × Nat) := [(0x33000000, 0x33FFFFFF, 0x33, 0), (0x16000002, 0x16FFFFF2, 0x16, 4),
      (0x38000007, 0x38FFFFFF, 0x38, 3), (0x25000001, 0x25FFFFFF, 0x25, 1), (0x2400A5C3, 0x24FFA5C3, 0x24, 16),
      (0x3A01FFFF, 0x3AFDFFFF, 0x3A, 18)]
    pairs.all (fun (w, v, op, k) => w != v && w.extractLsb' 24 8 == v.extractLsb' 24 8 &&
      (w.extractLsb' 24 8).toNat == op && w.extractLsb' 0 k == v.extractLsb' 0 k) = true := by decide

/-- StepRunsTheDecodedInstruction: a stream whose first word decodes, for an FL node and another; and none. -/
theorem test_witness_StepRunsTheDecodedInstruction :
    ({ ready .wg with stream := [⟨.fl, 0x32000015, some ⟨1, 2, 3, 4⟩⟩] } : State).stream = [⟨.fl, 0x32000015, some ⟨1, 2, 3, 4⟩⟩] ∧
    decode 0x32000015 = .ok (.flClock 21) ∧ decode 0x13000000 = .ok .wgOut ∧ (ready .wg).stream = [] := by decide

/-- ReservedWordsAreRefused: each clause at the boundaries of its range. -/
theorem test_witness_ReservedWordsAreRefused :
    let unit (w : Word) := (w.extractLsb' 28 4).toNat
    let op (w : Word) := (w.extractLsb' 24 4).toNat
    (4 ≤ unit 0x40000000 ∧ 4 ≤ unit 0xFFFFFFFF) ∧
    (unit 0x03000000 = 0 ∧ 3 ≤ op 0x03000000) ∧ (unit 0x18000000 = 1 ∧ 8 ≤ op 0x18000000) ∧
    (unit 0x26000000 = 2 ∧ 6 ≤ op 0x26000000) ∧ (unit 0x3D000000 = 3 ∧ 13 ≤ op 0x3D000000) ∧
    (unit 0x3F000000 = 3 ∧ 13 ≤ op 0x3F000000) ∧
    (unit 0x3A030000 = 3 ∧ op 0x3A030000 = 10 ∧ (0x3A030000 : Word).extractLsb' 16 2 = 3#2) ∧
    (decode 0x22000010 = .ok (.egClock 16) ∧ Instr.unit (.egClock 16) ≠ .cb ∧
      Instr.unit (.egClock 16) ≠ generatorOf .wg) := by decide

/-- UnreadyUnitsRefuseAllButConstruct: both life states, and a command that answers in a state of healthy generators. -/
theorem test_witness_UnreadyUnitsRefuseAllButConstruct :
    (Instr.cbTick.WellFormed ∧ Instr.cbTick.isConstruct = false ∧ State.reset.hasUnit Instr.cbTick.unit = true ∧
      State.reset.life Instr.cbTick.unit = .unconstructed) ∧
    (withBridge ⟨.faulted 0, 48000, 0⟩).life Instr.cbTick.unit = .faulted 0 ∧
    (nextOf (exec .egOut (ready .eg))).isSome = true ∧ (ready .eg).wg.life = .ready ∧ (ready .eg).eg.life = .ready ∧
    (ready .eg).fl.life = .ready := by decide

/-- PowerOnAcceptsOnlyConstruct: a generator's command, and one of a voice. -/
theorem test_witness_PowerOnAcceptsOnlyConstruct :
    (Instr.flWrvvol 2 0).WellFormed ∧ (Instr.flWrvvol 2 0).isConstruct = false ∧ Instr.wgOut.WellFormed ∧
    Instr.wgOut.isConstruct = false := by decide

/-- ConstructForgetsThePriorUnit, BridgeConstructSetsRateAndResidue, ZeroRateFaultsUntilReconstructed: the smallest and
the largest positive rate. -/
theorem test_witness_BridgeConstruct : (1 : Imm) ≠ 0 ∧ (16777215 : Imm) ≠ 0 := by decide

theorem accepts_ready_cb : (ready .wg).Accepts .cb := ⟨by decide, by decide⟩
theorem accepts_ready_wg : (ready .wg).Accepts .wg := ⟨by decide, by decide⟩
theorem accepts_ready_eg : (ready .eg).Accepts .eg := ⟨by decide, by decide⟩
theorem accepts_ready_fl : (ready .fl).Accepts .fl := ⟨by decide, by decide⟩

/-- A state with another WG accepts its commands when that WG is `Ready`. -/
theorem accepts_withWave {w : WaveformGenerator} (h : w.life = .ready) : (withWave w).Accepts .wg := ⟨rfl, h⟩

/-- The same of a state with another EG. -/
theorem accepts_withEnvelope {e : EnvelopeGenerator} (h : e.life = .ready) : (withEnvelope e).Accepts .eg := ⟨rfl, h⟩

/-- The same of a state with another FL. -/
theorem accepts_withFilter {f : FilterUnit} (p : SamplePorts) (h : f.life = .ready) : (withFilter f p).Accepts .fl :=
  ⟨rfl, h⟩

/-- The same of a state with another ClockBridge. -/
theorem accepts_withBridge {b : ClockBridge} (h : b.life = .ready) : (withBridge b).Accepts .cb := ⟨rfl, h⟩

/-- BridgeResetClearsTheResidue. -/
theorem test_witness_BridgeResetClearsTheResidue : (withBridge ⟨.ready, 48000, 27744⟩).Accepts .cb :=
  accepts_withBridge rfl

/-- TickDividesExactly: the smallest rate, and the largest with the largest residue; the largest residue at rate 1 whose
result fits the port. -/
theorem test_witness_TickDividesExactly :
    ((withBridge ⟨.ready, 1, 0⟩).Accepts .cb ∧ 0 < 1 ∧ 0 < 1) ∧
    ((withBridge ⟨.ready, 1, 2146498399⟩).Accepts .cb ∧ (2146498399 + 985248) / 1 < 2 ^ 31) ∧
    ((withBridge ⟨.ready, 16777215, 16777214⟩).Accepts .cb ∧
      (withBridge ⟨.ready, 16777215, 16777214⟩).cb.resNum < (withBridge ⟨.ready, 16777215, 16777214⟩).cb.sampleRate) :=
  ⟨⟨accepts_withBridge rfl, by decide, by decide⟩, ⟨accepts_withBridge rfl, by decide⟩, accepts_withBridge rfl, by decide⟩

/-- TicksNeverDrift. -/
theorem test_witness_TicksNeverDrift :
    (ready .wg).Accepts .cb ∧ ((ready .wg).cbs.get (ready .wg).sel).resNum = 0 ∧
    0 < ((ready .wg).cbs.get (ready .wg).sel).sampleRate := ⟨accepts_ready_cb, by decide, by decide⟩

/-- WaveConstructInitializes, EnvelopeConstructInitializes, FilterConstructInitializes. -/
theorem test_witness_Constructs : (ready .wg).sel = .wg ∧ (ready .eg).sel = .eg ∧ (ready .fl).sel = .fl := by decide

/-- WaveResetKeepsTargets, WaveClockRunsCycleByCycle, WaveWritesStoreTheirOperand: the largest accumulator, at the default
width and at another. -/
theorem test_witness_Wave : (ready .wg).Accepts .wg ∧
    ((withWave { wave with accumulator := 0xFFFFFF }).Accepts .wg ∧ 0xFFFFFF < 2 ^ 24) ∧
    0xFFFF < 2 ^ otherConfig.accBits := ⟨accepts_ready_wg, ⟨accepts_withWave rfl, by decide⟩, by decide⟩

/-- NoiseStepIsABijection: the clause on registers that are not 0, at the lowest and the highest bit; a bit position at
each end. -/
theorem test_witness_NoiseStepIsABijection :
    (1 < 2 ^ 23 ∧ 1 ≠ 0) ∧ (0x7FFFFF < 2 ^ 23 ∧ 0x7FFFFF ≠ 0) ∧ (0 < 1 ∧ 1 < 23) ∧ (0 < 22 ∧ 22 < 23) ∧
    (0 < 4 ∧ 4 < otherConfig.lfsrBits) := by decide

/-- WaveWritesStoreTheirOperand: a word of each row, the ignored bits set. -/
theorem test_witness_WaveWritesStoreTheirOperand :
    (0x14FFFFFF : Word).extractLsb' 24 8 = 0x14#8 ∧ (0x15001000 : Word).extractLsb' 24 8 = 0x15#8 ∧
    (0x16FFFFF2 : Word).extractLsb' 24 8 = 0x16#8 ∧ (0x17000003 : Word).extractLsb' 24 8 = 0x17#8 := by decide

/-- WaveOutputOfSingleSelections: each of the five selections. -/
theorem test_witness_WaveOutputOfSingleSelections : ∀ m ∈ [0b0000#4, 0b0010#4, 0b0100#4, 0b0001#4, 0b1000#4],
    (withWave { wave with waveformSelect := m }).Accepts .wg ∧
      (withWave { wave with waveformSelect := m }).wg.waveformSelect = m :=
  fun _ _ => ⟨accepts_withWave rfl, rfl⟩

/-- WaveOutputOfCombinedSelections: each of the four selections. -/
theorem test_witness_WaveOutputOfCombinedSelections : ∀ m ∈ [0b0011#4, 0b0101#4, 0b0110#4, 0b0111#4],
    (withWave { wave with waveformSelect := m }).Accepts .wg ∧
      (withWave { wave with waveformSelect := m }).wg.waveformSelect = m :=
  fun _ _ => ⟨accepts_withWave rfl, rfl⟩

/-- MixedNoiseDrawsAFreeValue: the first and the last such selection (`other_representable` is an instance of other
widths). -/
theorem test_witness_MixedNoiseDrawsAFreeValue : ∀ m ∈ [0b1001#4, 0b1111#4],
    (withWave { wave with waveformSelect := m }).Accepts .wg ∧
      9 ≤ (withWave { wave with waveformSelect := m }).wg.waveformSelect.toNat := by
  intro m hm
  refine ⟨accepts_withWave rfl, ?_⟩
  revert m
  decide

/-- EnvelopeResetKeepsAdsr, EnvelopeClockKeepsRegisters, EnvelopeOutputIsTheLevel, AdsrWriteStoresAndArms. -/
theorem test_witness_Envelope : (ready .eg).Accepts .eg := accepts_ready_eg

/-- GateEdgesMoveTheState: the gate high and low. -/
theorem test_witness_GateEdgesMoveTheState :
    ((ready .eg).Accepts .eg ∧ (ready .eg).eg.gate = true) ∧
    ((withEnvelope { envelope with gate := false, state := .release }).Accepts .eg ∧
      (withEnvelope { envelope with gate := false, state := .release }).eg.gate = false) :=
  ⟨⟨accepts_ready_eg, rfl⟩, accepts_withEnvelope rfl, rfl⟩

/-- DelayBugCostsExactlyOneCycle: on the reload cycle, and one cycle before it. -/
theorem test_witness_DelayBugCostsExactlyOneCycle :
    (envelope.writeHold = false ∧ envelope.rateCounter + 1 ≥ envelope.rateCounterPeriod) ∧
    (({ envelope with rateCounter := 7 } : EnvelopeGenerator).writeHold = false ∧ 7 + 1 < envelope.rateCounterPeriod) := by
  decide

/-- Section 3.3: a second write of other values before the same cycle leaves one hold, spent by one cycle. -/
theorem test_eg_two_writes :
    let e := egWithAdsr nodeConfig 3 4 5 6 (egWithAdsr nodeConfig 15 0 15 0 envelope)
    (e.writeHold, e.attack, e.rateCounter) = (true, 3, 8) ∧
    ((egCycle nodeConfig e).writeHold, (egCycle nodeConfig e).rateCounter) = (false, 8) ∧
    (egCycle nodeConfig (egCycle nodeConfig e)).rateCounter = 9 := by decide

/-- RateEventsFallEveryPeriod: a pending hold; a counter below the period, no cycle and the last cycle before the event;
a counter at the period and above it. -/
theorem test_witness_RateEventsFallEveryPeriod :
    let e : EnvelopeGenerator := { envelope with rateCounter := 5 }
    { e with writeHold := true }.writeHold = true ∧
    (e.writeHold = false ∧ e.rateCounter < e.rateCounterPeriod ∧ e.rateCounter + 0 < e.rateCounterPeriod ∧
      e.rateCounter + 3 < e.rateCounterPeriod) ∧
    { e with rateCounterPeriod := 5 }.rateCounterPeriod ≤ e.rateCounter ∧
    { e with rateCounterPeriod := 4 }.rateCounterPeriod ≤ e.rateCounter := by decide

/-- AttackClimbsToTheTop: the three levels of an event at their boundaries; a retrigger from Release in the middle of a
period, its first period and its last one below 255. -/
theorem test_witness_AttackClimbsToTheTop :
    let e := egWithGate nodeConfig true { envelope with state := .release, gate := false, envelopeCounter := 95 }
    envelope.state = .attack ∧ (253#8).toNat < 254 ∧
    ({ envelope with envelopeCounter := 254 } : EnvelopeGenerator).envelopeCounter = 254 ∧
    ({ envelope with envelopeCounter := 255 } : EnvelopeGenerator).envelopeCounter = 255 ∧
    (e.state = .attack ∧ e.writeHold = false ∧ e.rateCounterPeriod = nodeConfig.rate e.attack ∧
      e.rateCounter < e.rateCounterPeriod ∧ e.envelopeCounter.toNat + 1 < 255 ∧ e.envelopeCounter.toNat + 159 < 255) := by
  decide

/-- EnvelopeIsMonotone: an Attack that goes on, a Decay, a Decay at its sustain level, a held level 0. -/
theorem test_witness_EnvelopeIsMonotone :
    ((egCycle nodeConfig)^[1] envelope).state = .attack ∧
    ({ envelope with state := .release } : EnvelopeGenerator).state = .release ∧
    (nodeConfig.sustain envelope.sustain = 255 ∧
      ({ envelope with state := .decay, envelopeCounter := 255 } : EnvelopeGenerator).state = .decay) ∧
    ((egConstructed nodeConfig).state ≠ .attack ∧ (egConstructed nodeConfig).envelopeCounter = 0 ∧
      (egConstructed nodeConfig).holdZero = true) := by decide

/-- ExponentialEventIsGated: below the gate; at it at level 0 with `hold_zero` clear, with `hold_zero` set, at the sustain
level, above level 1, at level 1. -/
theorem test_witness_ExponentialEventIsGated :
    let e : EnvelopeGenerator := { envelope with state := .decay, envelopeCounter := 2 }
    let g : EnvelopeGenerator := { envelope with state := .release, exponentialCounterPeriod := 2 }
    (g.state = .release ∧ g.exponentialCounter + 1 < g.exponentialCounterPeriod) ∧
    (e.state = .decay ∧ e.exponentialCounter + 1 ≥ e.exponentialCounterPeriod) ∧
    ({ e with state := .release, envelopeCounter := 0 }.envelopeCounter = 0 ∧ e.holdZero = false) ∧
    (e.envelopeCounter ≠ 0 ∧ { e with holdZero := true }.holdZero = true) ∧
    { e with envelopeCounter := 255 }.envelopeCounter = nodeConfig.sustain e.sustain ∧
    (1 < e.envelopeCounter.toNat ∧ e.envelopeCounter ≠ nodeConfig.sustain e.sustain) ∧
    ({ e with envelopeCounter := 1 }.envelopeCounter = 1 ∧ (1 : BitVec 8) ≠ nodeConfig.sustain e.sustain) := by
  decide

/-- ExponentialEventIsGated, Idle: a gate rise leaves it, and each of the three commands that enter it does. -/
theorem test_witness_Idle :
    (egConstructed nodeConfig).state = .idle ∧ (egConstructed nodeConfig).gate = false ∧
    (nextOf (exec (.egWrgate 1) (withEnvelope (egConstructed nodeConfig)))).map (·.eg.state) = some .attack ∧
    (nextOf (exec .egConstruct (ready .eg))).map (·.eg.state) = some .idle ∧
    (nextOf (exec .egReset (ready .eg))).map (·.eg.state) = some .idle ∧
    (nextOf (exec (.egClock 1) (withEnvelope { envelope with state := .release, gate := false }))).map (·.eg.state) =
      some .idle := by decide

/-- In Idle the rate counter reloads and nothing else happens (`41_envelope.md` R140): the last cycle of a period. -/
theorem test_eg_idle : egCycle nodeConfig { egConstructed nodeConfig with rateCounter := 8 } = egConstructed nodeConfig := by
  decide

/-- FilterResetKeepsTargets, CacheWritesRecompute, FilterWritesStoreTheirOperand, FilterOutputMixesAndSaturates. -/
theorem test_witness_Filter : (ready .fl).Accepts .fl ∧ 1 ≤ otherConfig.satBits ∧ otherConfig.satBits ≤ 32 :=
  ⟨accepts_ready_fl, by decide, by decide⟩

/-- VoiceVolumeWritesOneVoice: voices 0 and 2; index 3 is the refused one. -/
theorem test_witness_VoiceVolumeWritesOneVoice : (0#2 ≠ 3#2 ∧ 2#2 ≠ 3#2) ∧ (ready .fl).Accepts .fl :=
  ⟨by decide, accepts_ready_fl⟩

/-- SubstepsCoverTheCycles. -/
theorem test_witness_SubstepsCoverTheCycles : nodeConfig.WellFormed := nodeConfig_wellFormed

/-- SubstepFollowsTheEquations: the two sides, at the edges of the register (`Vbp` at its lowest value, and one below). -/
theorem test_witness_SubstepFollowsTheEquations :
    (flSubstep nodeConfig 8 { filter with vbp := -2147483648, q1024 := 0, w0Int := 0 }).isOk = true ∧
    (flSubstep nodeConfig 8 { filter with vbp := -2147483648, q1024 := 0, w0Int := 128, vhp := 1024 }).isOk = false := by
  decide

/-- FilterClockRunsStageAndSubsteps: sub-steps that end, and sub-steps that leave the range. -/
theorem test_witness_FilterClockRunsStageAndSubsteps :
    ((flIntegrate otherConfig (substepSizes otherConfig 1) (inputStage otherConfig silent filter)).isOk = true ∧
      flIntegrate otherConfig (substepSizes otherConfig 1) (inputStage otherConfig silent { filter with vbp := 20000 }) =
        .error .filterRange) ∧
    ((ready .fl).Accepts .fl ∧ (flIntegrate nodeConfig (substepSizes nodeConfig 20) (inputStage nodeConfig silent filter)).isOk
      = true) ∧
    (withFilter { filter with vhp := 2147483647, vbp := -2147483648 } silent).Accepts .fl ∧
    flIntegrate nodeConfig (substepSizes nodeConfig 8) (inputStage nodeConfig silent
      { filter with vhp := 2147483647, vbp := -2147483648 }) = .error .filterRange :=
  ⟨⟨by decide, by rfl⟩, ⟨accepts_ready_fl, by decide⟩, accepts_withFilter _ rfl, by rfl⟩

/-- BypassIsExact. -/
theorem test_witness_BypassIsExact :
    let s := withFilter { filter with routing := 0, mode := 7 } ⟨100000, 7, 12345, 1000⟩
    s.Accepts .fl ∧ s.fl.routing = 0 ∧ s.fl.vhp = 0 ∧ s.fl.vbp = 0 ∧ s.fl.vlp = 0 :=
  ⟨accepts_withFilter _ rfl, rfl, rfl, rfl, rfl⟩

/-- ClockCommandsAdd: the largest sum, in a WG node and in an EG node. -/
theorem test_witness_ClockCommandsAdd :
    (16777215 : Imm).toNat + (0 : Imm).toNat < 2 ^ 24 ∧ (20 : Imm).toNat + (21 : Imm).toNat < 2 ^ 24 ∧
    (ready .wg).Accepts .wg ∧ (ready .eg).Accepts .eg := ⟨by decide, by decide, accepts_ready_wg, accepts_ready_eg⟩

/-- OutputsAreIdempotent: an output with no free value. -/
theorem test_witness_OutputsAreIdempotent :
    Instr.egOut ∈ [Instr.wgOut, .egOut, .flOut] ∧ (nextOf (exec .egOut (ready .eg))).map (·.draws) = some (ready .eg).draws := by
  decide

/-- CommandsTouchOnlyTheirNode: a command to the EG node that answers, another node than it, and a free value drawn. -/
theorem test_witness_CommandsTouchOnlyTheirNode :
    (nextOf (issue ⟨.eg, 0x22000001, silent⟩ (ready .wg))).isSome = true ∧ NodeId.fl ≠ .eg ∧ NodeId.eg ≠ .fl ∧
    (nextOf (issue ⟨.wg, 0x13000000, silent⟩ (withWave { wave with waveformSelect := 9 }))).map (·.draws) = some 1 := by
  decide

/-- NodesAreIndependent: two states that differ in the other nodes; a next state, a refusal and a fault. -/
theorem test_witness_NodesAreIndependent :
    SameNode .eg (ready .wg) { ready .fl with wg := { wave with frequency := 5 } } ∧
    (ready .wg).draws = ({ ready .fl with wg := { wave with frequency := 5 } } : State).draws ∧
    (nextOf (issue ⟨.eg, 0x22000001, silent⟩ (ready .wg))).isSome = true ∧
    refusalFrom (issue ⟨.eg, 0x12000001, silent⟩ (ready .wg)) = some .unitAbsent ∧
    faultFrom (issue ⟨.fl, 0x32000008, silent⟩ { ready .wg with
      fl := { filter with vhp := 2147483647, vbp := -2147483648 } }) = some .filterRange :=
  ⟨⟨rfl, rfl, rfl⟩, rfl, by decide, by decide, by decide⟩

/-- RegisterTargetsHaveOneWriter: each write changes its register from the test state. -/
theorem test_witness_RegisterTargetsHaveOneWriter :
    (nextOf (exec (.wgWrfreq 1) (ready .wg))).map (·.wg.frequency) ≠ some wave.frequency ∧
    (nextOf (exec (.wgWrpw 1) (ready .wg))).map (·.wg.pulseWidth) ≠ some wave.pulseWidth ∧
    (nextOf (exec (.wgWrwave 2) (ready .wg))).map (·.wg.waveformSelect) ≠ some wave.waveformSelect ∧
    (nextOf (exec (.wgWrmodel 1) (ready .wg))).map (·.wg.chipModel) ≠ some wave.chipModel ∧
    (nextOf (exec (.egWradsr 1 0 0 0) (ready .eg))).map (·.eg.attack) ≠ some envelope.attack ∧
    (nextOf (exec (.flWrvvol 0 1) (ready .fl))).map (·.fl.voiceVolume) ≠ some filter.voiceVolume ∧
    (nextOf (exec (.flWrdither 1) (ready .fl))).map (·.fl.ditherEnable) ≠ some filter.ditherEnable ∧
    (nextOf (exec (.flWrfc 1) (ready .fl))).map (·.fl.cutoff) ≠ some filter.cutoff ∧
    (nextOf (exec (.flWrres 1) (ready .fl))).map (·.fl.resonance) ≠ some filter.resonance ∧
    (nextOf (exec (.flWrboost 1) (ready .fl))).map (·.fl.resonanceBoost) ≠ some filter.resonanceBoost ∧
    (nextOf (exec (.flWrroute 0) (ready .fl))).map (·.fl.routing) ≠ some filter.routing ∧
    (nextOf (exec (.flWrmode 0) (ready .fl))).map (·.fl.mode) ≠ some filter.mode ∧
    (nextOf (exec (.flWrvol 0) (ready .fl))).map (·.fl.volume) ≠ some filter.volume ∧
    (nextOf (exec (.flWrmodel 1) (ready .fl))).map (·.fl.chipModel) ≠ some filter.chipModel := by decide

/-- ResultsStayInRange: each command with a result answers, and one without. -/
theorem test_witness_ResultsStayInRange :
    (nextOf (exec .wgOut (ready .wg))).isSome = true ∧ (nextOf (exec .egOut (ready .eg))).isSome = true ∧
    (nextOf (exec .flOut (ready .fl))).isSome = true ∧ (nextOf (exec .cbTick (ready .wg))).isSome = true ∧
    (nextOf (exec (.wgWrfreq 1) (ready .wg))).isSome = true := by decide

/-- A state after every hard reset, about to count a cycle of EG. -/
def constructed : State := { ready .eg with
  wg := wgConstructed nodeConfig
  eg := egConstructed nodeConfig
  fl := flConstructed nodeConfig
  stream := [⟨.eg, 0x22000001, silent⟩] }

/-- EveryStepKeepsTheInvariant: a state that has the invariant and a next step; an instance that meets the provisos. -/
theorem test_witness_EveryStepKeepsTheInvariant :
    (constructed.Inv nodeConfig ∧ (nextOf (step constructed)).isSome = true) ∧
    (otherConfig.WellFormed ∧ otherConfig.Representable ∧ 15 ≤ otherConfig.vBits ∧
      (∀ r : Nat, r < 2 ^ otherConfig.lfsrBits → r ≠ 0 → lfsrStep otherConfig r ≠ 0)) ∧
    (State.resetAt otherConfig).ports = none ∧ (nextOf (stepAt otherConfig (State.resetAt otherConfig))).isSome = true := by
  refine ⟨⟨⟨?_, ⟨(fun _ h => by cases h), by decide, by decide, by decide, by decide, by decide⟩, ?_, ?_, rfl⟩, by decide⟩,
    ⟨other_wellFormed, other_representable, by decide, by decide⟩, rfl, by decide⟩
  · intro k
    cases k <;> exact ⟨fun _ => by decide, fun _ h => by cases h⟩
  · exact ⟨(fun _ h => by cases h), by decide, by decide, by decide, by decide, by decide, by decide, ⟨0, by decide⟩,
      ⟨0, by decide⟩, by decide⟩
  · exact ⟨(fun _ h => by cases h), rfl, rfl, by decide, by decide, by decide, by decide, by decide, by decide,
      by decide, by decide⟩

/-- InvariantHoldsAtPowerOn: a well-formed configuration. -/
theorem test_witness_InvariantHoldsAtPowerOn : nodeConfig.WellFormed := nodeConfig_wellFormed

/-- NodeConstructReadiesOrFaults: the smallest positive rate, zero, a negative rate; event lists of a block of one
sample, empty and with two gate writes. -/
theorem test_witness_NodeConstructReadiesOrFaults : (0 < (1 : Int)) ∧ ((0 : Int) ≤ 0) ∧ ((-44100 : Int) ≤ 0) ∧
    blockWellFormed .wg 1 [] = true ∧ blockWellFormed .eg 1 [⟨0, 0x25000001⟩, ⟨0, 0x25000000⟩] = true := by decide

/-- BlocksConcatenate: two blocks of one sample, the second with a gate write. -/
theorem test_witness_BlocksConcatenate :
    ∃ t u o₁ o₂, processBlock nodeConfig .eg 1 [] (fun _ => silent) (ready .eg) = .next (t, o₁) ∧
      processBlock nodeConfig .eg 1 [⟨0, 0x25000000⟩] (fun _ => silent) t = .next (u, o₂) := ⟨_, _, _, _, rfl, rfl⟩

/-- BlocksConcatenate, one sample: on an EG node with two gate writes, and on an FL node with inputs. -/
theorem test_witness_OneSample :
    (blockWellFormed .eg 1 [⟨0, 0x25000000⟩, ⟨0, 0x25000001⟩] = true ∧
      ∃ s₁ s₂ s₃ s₄, runCommands nodeConfig [⟨.eg, 0x25000000, none⟩, ⟨.eg, 0x25000001, none⟩] (ready .eg) = .next s₁ ∧
        execAt nodeConfig .cbTick (s₁.present .eg none) = .next s₂ ∧ s₂.rsps.get .eg = some 20 ∧
        execAt nodeConfig (.egClock 20) (s₂.present .eg (some silent)) = .next s₃ ∧
        execAt nodeConfig .egOut (s₃.present .eg none) = .next s₄) ∧
    (∃ s₂ s₃ s₄, execAt nodeConfig .cbTick ((ready .fl).present .fl none) = .next s₂ ∧ s₂.rsps.get .fl = some 20 ∧
      execAt nodeConfig (.flClock 20) (s₂.present .fl (some ⟨100, 0, 0, 0⟩)) = .next s₃ ∧
      execAt nodeConfig .flOut (s₃.present .fl none) = .next s₄) ∧
    (ready .eg).eg.life = .ready ∧ (ready .wg).wg.life = .ready ∧ ((ready .eg).cbs.get .eg).life = .ready ∧
    ((ready .eg).cbs.get .eg).resNum < ((ready .eg).cbs.get .eg).sampleRate :=
  ⟨⟨by decide, _, _, _, _, rfl, rfl, rfl, rfl, rfl⟩, ⟨_, _, _, rfl, rfl, rfl, rfl⟩, rfl, rfl, rfl, by decide⟩

/-- An event acts before the sample's cycles and the output is read after them (`44_node_adapter.md` R225): a gate rise
at offset 0 with 20 cycles of period 9 reaches level 2. -/
theorem test_block_order : (match processBlock nodeConfig .eg 1 [⟨0, 0x25000001⟩] (fun _ => silent)
      (withEnvelope (egConstructed nodeConfig)) with
    | .next (_, out) => some out
    | _ => none) = some [some 2] := by decide

/-- MalformedBlocksAreRefused: an offset at the end of the block, a node without EG, a word that is no gate write. -/
theorem test_witness_MalformedBlocksAreRefused :
    (⟨8, 0x25000001⟩ : BlockEvent) ∈ [(⟨8, 0x25000001⟩ : BlockEvent)] ∧ 8 ≤ (⟨8, 0x25000001⟩ : BlockEvent).offset ∧
    NodeId.wg ≠ .eg ∧ (∀ b, decode 0x240000A1 ≠ .ok (.egWrgate b)) := by
  refine ⟨by decide, by decide, by decide, ?_⟩
  have h : decode 0x240000A1 = .ok (.egWradsr 0 0 10 1) := by decide
  intro b hb
  rw [h] at hb
  cases hb

/-- SettersClampExactly: the two frequency clamps. -/
theorem test_witness_SettersClampExactly : ((1 / 10 : Rat) ≤ 1 / 10) ∧ ((-5 : Rat) ≤ 1 / 10) ∧ ((20000 : Rat) ≤ 20000) := by
  norm_num

/-- NormalizedOutputsStayInRange: the ends of the three ranges. -/
theorem test_witness_NormalizedOutputsStayInRange :
    ((0 : Int) ≤ 0 ∧ (0 : Int) ≤ 4095) ∧ ((0 : Int) ≤ 4095 ∧ (4095 : Int) ≤ 4095) ∧ ((0 : Int) ≤ 255 ∧ (255 : Int) ≤ 255) ∧
    ((-32768 : Int) ≤ -32768 ∧ (-32768 : Int) ≤ 32767) ∧ ((-32768 : Int) ≤ 32767 ∧ (32767 : Int) ≤ 32767) := by decide

end Sys2Proof.Tests
end

section
/-! PROOFS. The statements of `00_scope.md`: a command touches its own node alone, what it does depends on nothing of
the other nodes, and the defaults of R11. -/

namespace Sys2Proof.Machine

/-! ## What a command leaves of the other nodes -/

theorem SameNode.trans {k : NodeId} {s t u : State} (h : SameNode k s t) (h' : SameNode k t u) : SameNode k s u := by
  obtain ⟨hb, hr, hg⟩ := h
  obtain ⟨hb', hr', hg'⟩ := h'
  refine ⟨hb.trans hb', hr.trans hr', ?_⟩
  cases k with
  | wg | eg | fl => exact hg.trans hg'

/-- An answer stands on the response port of the addressed node alone. -/
theorem sameNode_answer {k : NodeId} {s : State} (r : Option Word) (hk : k ≠ s.sel) : SameNode k s (s.answer r) := by
  refine ⟨rfl, (PerNode.get_set_of_ne _ _ hk).symm, ?_⟩
  cases k with
  | wg | eg | fl => rfl

/-- The update of a command leaves every node but the addressed one. -/
theorem Update.sameNode {i : Instr} {s u : State} {k : NodeId} (h : Update i s u) (hk : k ≠ s.sel) :
    SameNode k s u := by
  cases h with
  | bridge b _ =>
    refine ⟨(PerNode.get_set_of_ne _ _ hk).symm, rfl, ?_⟩
    cases k with
    | wg | eg | fl => rfl
  | wave _ _ hs =>
    cases k with
    | wg => exact absurd hs.symm hk
    | eg | fl => exact ⟨rfl, rfl, rfl⟩
  | envelope _ _ hs =>
    cases k with
    | eg => exact absurd hs.symm hk
    | wg | fl => exact ⟨rfl, rfl, rfl⟩
  | filter _ _ hs =>
    cases k with
    | fl => exact absurd hs.symm hk
    | wg | eg => exact ⟨rfl, rfl, rfl⟩
  | none | draw =>
    cases k with
    | wg | eg | fl => exact ⟨rfl, rfl, rfl⟩

theorem Update.stream_eq {i : Instr} {s u : State} (h : Update i s u) : u.stream = s.stream := by cases h <;> rfl

theorem Update.sel_eq {i : Instr} {s u : State} (h : Update i s u) : u.sel = s.sel := by cases h <;> rfl

/-- `WG.OUT` alone uses up a free value (`40_waveform.md` R116). -/
theorem Update.eq_wgOut_of_draws_ne {i : Instr} {s u : State} (h : Update i s u) (hd : u.draws ≠ s.draws) :
    i = .wgOut := by
  cases h with
  | draw hi _ => exact hi
  | bridge | wave | envelope | filter | none => exact absurd rfl hd

/-- The node a command was issued to is the addressed one after it. -/
theorem issue_next_sel {c : Command} {s t : State} (h : issue c s = .next t) : t.sel = c.node := by
  obtain ⟨i, -, he⟩ := issue_next h
  obtain ⟨u, r, hu, rfl⟩ := exec_next_update he
  exact hu.sel_eq

/-- Settles O49: a command is one update of the addressed node and one answer on it. -/
theorem commandsTouchOnlyTheirNode : Obligations.CommandsTouchOnlyTheirNode := by
  intro c s t ht
  have hs := issue_next_sel ht
  obtain ⟨i, hd, he⟩ := issue_next ht
  obtain ⟨u, r, hu, rfl⟩ := exec_next_update he
  refine ⟨fun k hk => ?_, hu.stream_eq, hs, rfl, fun hne => ?_⟩
  · have hp : SameNode k (s.present c.node c.ports) u := hu.sameNode hk
    exact hp.trans (sameNode_answer r (hs ▸ hk))
  · rw [hd, hu.eq_wgOut_of_draws_ne hne]

/-! ## Two states that a command cannot tell apart -/

/-- All that a command can read agrees: the addressed node, what stands on its ports, and the model's counter of free
values. The other two nodes and the commands still to come may differ. -/
structure SameView (s s' : State) : Prop where
  sel : s.sel = s'.sel
  ports : s.ports = s'.ports
  draws : s.draws = s'.draws
  node : SameNode s.sel s s'

/-- Two outcomes of the same kind: the same fault, the same refusal, or next states with the same view. -/
inductive SameAnswer : Result → Result → Prop where
  | next {t t' : State} (h : SameView t t') : SameAnswer (.next t) (.next t')
  | fault (e : Fault) : SameAnswer (.fault e) (.fault e)
  | refused (r : Refusal) : SameAnswer (.refused r) (.refused r)

theorem SameAnswer.of_next {t : State} {a : Result} (h : SameAnswer (.next t) a) :
    ∃ t', a = .next t' ∧ SameView t t' := by
  cases h with
  | next hv => exact ⟨_, rfl, hv⟩

theorem SameAnswer.of_fault {e : Fault} {a : Result} (h : SameAnswer (.fault e) a) : a = .fault e := by cases h; rfl

theorem SameAnswer.of_refused {r : Refusal} {a : Result} (h : SameAnswer (.refused r) a) : a = .refused r := by
  cases h; rfl

namespace SameNode

variable {k : NodeId} {s s' : State} (h : SameNode k s s')
include h

theorem setWg (w : WaveformGenerator) : SameNode k (s.setWg w) (s'.setWg w) := by
  obtain ⟨hb, hr, hg⟩ := h
  cases k with
  | wg => exact ⟨hb, hr, rfl⟩
  | eg | fl => exact ⟨hb, hr, hg⟩

theorem setEg (e : EnvelopeGenerator) : SameNode k (s.setEg e) (s'.setEg e) := by
  obtain ⟨hb, hr, hg⟩ := h
  cases k with
  | eg => exact ⟨hb, hr, rfl⟩
  | wg | fl => exact ⟨hb, hr, hg⟩

theorem setFl (f : FilterUnit) : SameNode k (s.setFl f) (s'.setFl f) := by
  obtain ⟨hb, hr, hg⟩ := h
  cases k with
  | fl => exact ⟨hb, hr, rfl⟩
  | wg | eg => exact ⟨hb, hr, hg⟩

/-- One command on the port of a node on which two states agree gives them the same view. -/
theorem present (hd : s.draws = s'.draws) (p : Option SamplePorts) : SameView (s.present k p) (s'.present k p) where
  sel := rfl
  ports := rfl
  draws := hd
  node := h

end SameNode

namespace SameView

variable {s s' : State} (h : SameView s s')
include h

/-! ### What a command reads is the same -/

theorem cb : s.cb = s'.cb := by
  obtain ⟨hb, -, -⟩ := h.node
  simpa [State.cb, ← h.sel] using hb

theorem wg (hs : s.sel = .wg) : s.wg = s'.wg := by
  obtain ⟨-, -, hg⟩ : SameNode .wg s s' := hs ▸ h.node
  exact hg

theorem eg (hs : s.sel = .eg) : s.eg = s'.eg := by
  obtain ⟨-, -, hg⟩ : SameNode .eg s s' := hs ▸ h.node
  exact hg

theorem fl (hs : s.sel = .fl) : s.fl = s'.fl := by
  obtain ⟨-, -, hg⟩ : SameNode .fl s s' := hs ▸ h.node
  exact hg

theorem portValues : s.portValues = s'.portValues := by simp only [State.portValues, h.ports]

theorem hasUnit (u : UnitId) : s.hasUnit u = s'.hasUnit u := by simp only [State.hasUnit, h.sel]

/-- Only of a unit the addressed node contains: the life states of the other generators may differ. -/
theorem life {u : UnitId} (hu : s.hasUnit u = true) : s.life u = s'.life u := by
  cases u with
  | cb => exact congrArg ClockBridge.life h.cb
  | wg => exact congrArg WaveformGenerator.life (h.wg (s.hasUnit_wg_iff.mp hu))
  | eg => exact congrArg EnvelopeGenerator.life (h.eg (s.hasUnit_eg_iff.mp hu))
  | fl => exact congrArg FilterUnit.life (h.fl (s.hasUnit_fl_iff.mp hu))

/-! ### What a command writes keeps the view -/

theorem setCb (b : ClockBridge) : SameView (s.setCb b) (s'.setCb b) where
  sel := h.sel
  ports := h.ports
  draws := h.draws
  node := ⟨by simp [← h.sel], h.node.2⟩

theorem setWg (w : WaveformGenerator) : SameView (s.setWg w) (s'.setWg w) := ⟨h.sel, h.ports, h.draws, h.node.setWg w⟩

theorem setEg (e : EnvelopeGenerator) : SameView (s.setEg e) (s'.setEg e) := ⟨h.sel, h.ports, h.draws, h.node.setEg e⟩

theorem setFl (f : FilterUnit) : SameView (s.setFl f) (s'.setFl f) := ⟨h.sel, h.ports, h.draws, h.node.setFl f⟩

theorem useDraw : SameView s.useDraw s'.useDraw := ⟨h.sel, h.ports, congrArg (· + 1) h.draws, h.node⟩

theorem answer (r : Option Word) : SameView (s.answer r) (s'.answer r) where
  sel := h.sel
  ports := rfl
  draws := h.draws
  node := by
    obtain ⟨hb, -, hg⟩ := h.node
    exact ⟨hb, by simp [← h.sel], hg⟩

/-! ### The ends and the gates of a command answer alike -/

theorem done_alike : SameAnswer (done s) (done s') := .next (h.answer _)

theorem doneWith_alike (v : Int) : SameAnswer (doneWith v s) (doneWith v s') := .next (h.answer _)

theorem answerWave_alike {bits : Nat} (o : WaveOut bits) : SameAnswer (answerWave o s) (answerWave o s') := by
  cases o with
  | value v => exact h.doneWith_alike _
  | free =>
    simp only [answerWave, h.draws]
    exact h.useDraw.doneWith_alike _

theorem finishFilter_alike (r : Except Fault FilterUnit) : SameAnswer (finishFilter r s) (finishFilter r s') := by
  cases r with
  | ok f => exact (h.setFl f).done_alike
  | error e => exact .fault e

theorem requirePresent_alike {u : UnitId} {k k' : Result} (hk : s.hasUnit u = true → SameAnswer k k') :
    SameAnswer (requirePresent u s k) (requirePresent u s' k') := by
  have hu' := h.hasUnit u
  cases hu : s.hasUnit u with
  | true =>
    rw [requirePresent_of_hasUnit k hu, requirePresent_of_hasUnit k' (hu' ▸ hu)]
    exact hk hu
  | false =>
    rw [requirePresent_of_absent k hu, requirePresent_of_absent k' (hu' ▸ hu)]
    exact .refused _

theorem requireReady_alike {u : UnitId} {k k' : Result} (hk : s.hasUnit u = true → SameAnswer k k') :
    SameAnswer (requireReady u s k) (requireReady u s' k') := by
  refine h.requirePresent_alike fun hu => ?_
  rw [h.life hu]
  cases s'.life u with
  | ready => exact hk hu
  | unconstructed | faulted => exact .refused _

/-! ### A command that writes one unit, from that unit alone -/

theorem writeCb_alike {b b' : ClockBridge} (hb : s.cb = s'.cb → b = b') :
    SameAnswer (requireReady .cb s (done (s.setCb b))) (requireReady .cb s' (done (s'.setCb b'))) :=
  h.requireReady_alike fun _ => hb h.cb ▸ (h.setCb b).done_alike

theorem writeWg_alike {w w' : WaveformGenerator} (hw : s.wg = s'.wg → w = w') :
    SameAnswer (requireReady .wg s (done (s.setWg w))) (requireReady .wg s' (done (s'.setWg w'))) :=
  h.requireReady_alike fun hu => hw (h.wg (s.hasUnit_wg_iff.mp hu)) ▸ (h.setWg w).done_alike

theorem writeEg_alike {e e' : EnvelopeGenerator} (he : s.eg = s'.eg → e = e') :
    SameAnswer (requireReady .eg s (done (s.setEg e))) (requireReady .eg s' (done (s'.setEg e'))) :=
  h.requireReady_alike fun hu => he (h.eg (s.hasUnit_eg_iff.mp hu)) ▸ (h.setEg e).done_alike

theorem writeFl_alike {f f' : FilterUnit} (hf : s.fl = s'.fl → f = f') :
    SameAnswer (requireReady .fl s (done (s.setFl f))) (requireReady .fl s' (done (s'.setFl f'))) :=
  h.requireReady_alike fun hu => hf (h.fl (s.hasUnit_fl_iff.mp hu)) ▸ (h.setFl f).done_alike

/-! ### Every command answers alike -/

/-- At rate 0 too, where `ConfigFault` keeps the other fields of the addressed ClockBridge. -/
theorem execCbConstruct_alike (sr : Imm) : SameAnswer (execCbConstruct sr s) (execCbConstruct sr s') := by
  refine h.requirePresent_alike fun _ => ?_
  split
  · rw [raiseConfigFault, raiseConfigFault, h.cb]
    exact (h.setCb _).done_alike
  · exact (h.setCb _).done_alike

theorem cbTickAt_alike (c : Config) : SameAnswer (cbTickAt c s) (cbTickAt c s') :=
  h.requireReady_alike fun _ => h.cb ▸ (h.setCb _).doneWith_alike _

/-- The sample ports are read here alone. -/
theorem flClockAt_alike (c : Config) (n : Imm) : SameAnswer (flClockAt c n s) (flClockAt c n s') := by
  refine h.requireReady_alike fun hu => ?_
  rw [h.portValues, h.fl (s.hasUnit_fl_iff.mp hu)]
  exact h.finishFilter_alike _

theorem flWrvvolAt_alike (c : Config) (k : BitVec 2) (val : BitVec 16) :
    SameAnswer (flWrvvolAt c k val s) (flWrvvolAt c k val s') := by
  unfold flWrvvolAt
  cases voiceIndex k with
  | some i => exact h.writeFl_alike fun hf => by rw [hf]
  | none => exact .refused _

/-- The two-run invariant, at any configuration (`00_scope.md` R4, `20_memory.md` R70, R75). -/
theorem execAt_alike (c : Config) (i : Instr) : SameAnswer (execAt c i s) (execAt c i s') := by
  cases i with
  | cbConstruct sr => exact h.execCbConstruct_alike sr
  | cbReset => exact h.writeCb_alike fun hb => by rw [hb]
  | cbTick => exact h.cbTickAt_alike c
  | wgConstruct => exact h.requirePresent_alike fun _ => (h.setWg _).done_alike
  | egConstruct => exact h.requirePresent_alike fun _ => (h.setEg _).done_alike
  | flConstruct => exact h.requirePresent_alike fun _ => (h.setFl _).done_alike
  | wgReset | wgClock | wgWrfreq | wgWrpw | wgWrwave | wgWrmodel => exact h.writeWg_alike fun hw => by rw [hw]
  | egReset | egClock | egWradsr | egWrgate => exact h.writeEg_alike fun he => by rw [he]
  | flReset | flWrfc | flWrres | flWrboost | flWrroute | flWrmode | flWrvol | flWrdither | flWrmodel =>
    exact h.writeFl_alike fun hf => by rw [hf]
  | flWrvvol k val => exact h.flWrvvolAt_alike c k val
  | flClock n => exact h.flClockAt_alike c n
  | wgOut => exact h.requireReady_alike fun hu => h.wg (s.hasUnit_wg_iff.mp hu) ▸ h.answerWave_alike _
  | egOut => exact h.requireReady_alike fun hu => h.eg (s.hasUnit_eg_iff.mp hu) ▸ h.doneWith_alike _
  | flOut => exact h.requireReady_alike fun hu => h.fl (s.hasUnit_fl_iff.mp hu) ▸ h.doneWith_alike _

end SameView

/-- A reserved word is refused alike in any two states; any other executes on views that agree. -/
theorem SameNode.issue_alike {c : Command} {s s' : State} (h : SameNode c.node s s') (hd : s.draws = s'.draws) :
    SameAnswer (issue c s) (issue c s') := by
  cases hw : decode c.word with
  | ok i =>
    rw [issue_of_ok s hw, issue_of_ok s' hw, ← execAt_nodeConfig, ← execAt_nodeConfig]
    exact (h.present hd c.ports).execAt_alike nodeConfig i
  | error e =>
    rw [issue_of_error s hw, issue_of_error s' hw]
    exact .refused _

/-- Settles O50: from two states with the same view every command answers alike and leaves the same view. -/
theorem nodesAreIndependent : Obligations.NodesAreIndependent := by
  intro c s s' hn hd
  have ha : SameAnswer (issue c s) (issue c s') := hn.issue_alike hd
  refine ⟨fun t ht => ?_, fun e he => (he ▸ ha).of_fault, fun r hr => (hr ▸ ha).of_refused⟩
  obtain ⟨t', ht', hv⟩ := (ht ▸ ha).of_next
  exact ⟨t', ht', issue_next_sel ht ▸ hv.node, hv.draws⟩

/-! ## The defaults of R11 -/

theorem defaultRate_table : List.ofFn (fun r : Fin 16 => defaultRate (BitVec.ofFin r)) =
    [9, 32, 63, 95, 149, 220, 267, 313, 392, 977, 1954, 3126, 3907, 11720, 19532, 31251] := by decide

/-- `17*s` fits the level's 8 bits. -/
theorem defaultSustain_toNat (v : BitVec 4) : (defaultSustain v).toNat = 17 * v.toNat := by
  rw [defaultSustain, BitVec.toNat_ofNat]
  omega

/-- Checked at each of the 256 levels. -/
theorem defaultExpBp_eq_lookup (v : BitVec 8) : defaultExpBp v =
    [(255#8, 1), (93#8, 2), (54#8, 4), (26#8, 8), (14#8, 16), (6#8, 30), (0#8, 1)].lookup v := by
  revert v; decide

/-- Settles O53: the operations at `nodeConfig` are the interface's, and each field of it is R11's default. -/
theorem theDefaultsAreOneInstance : Obligations.TheDefaultsAreOneInstance :=
  ⟨execAt_nodeConfig, stepAt_nodeConfig, rfl, nodeConfig_wellFormed, nodeConfig_representable,
    rfl, rfl, rfl, rfl, rfl, rfl, rfl, rfl, rfl, rfl, rfl,
    defaultRate_table, defaultSustain_toNat, defaultExpBp_eq_lookup,
    rfl, rfl, rfl, rfl, rfl, rfl, rfl, rfl, rfl, rfl, rfl, rfl⟩

end Sys2Proof.Machine
end

section
/-! PROOFS. The statements of `10_state.md`: what a step runs, what power-on accepts, the one writer of each register
target, and the invariant of R57, which holds at power-on and which every step keeps. -/

namespace Sys2Proof.Machine

/-! ## A step, and power-on -/

/-- Settles O5: a step issues the first command, and issuing a word that decodes executes it on the command's node. -/
theorem stepRunsTheDecodedInstruction : Obligations.StepRunsTheDecodedInstruction := by
  refine ⟨fun s c rest i hs hd => ?_, fun s hs => step_nil hs⟩
  rw [step_cons hs, issue_of_ok _ hd]
  rfl

/-- Every well-formed command but a `CONSTRUCT` stands behind the gate of its unit (`60_exceptions.md` R253). -/
theorem exec_eq_requireReady {i : Instr} (s : State) (hi : i.WellFormed) (hc : i.isConstruct = false) :
    ∃ k, exec i s = requireReady i.unit s k := by
  cases i with
  | cbConstruct | wgConstruct | egConstruct | flConstruct => cases hc
  | flWrvvol k val =>
    have hne : k ≠ 3#2 := by simpa [Instr.WellFormed, Instr.wellFormed] using hi
    obtain ⟨_, hk⟩ := voiceIndex_of_ne hne
    simp only [exec, execFlWrvvol, flWrvvolAt, hk]
    exact ⟨_, rfl⟩
  | _ => exact ⟨_, rfl⟩

theorem life_reset_present (k : NodeId) (p : Option SamplePorts) (u : UnitId) :
    (State.reset.present k p).life u = .unconstructed := by
  cases u with
  | cb => cases k <;> rfl
  | wg | eg | fl => rfl

/-- Settles O9: every unit is `Unconstructed` at power-on, and the gate of its unit refuses every other command. -/
theorem powerOnAcceptsOnlyConstruct : Obligations.PowerOnAcceptsOnlyConstruct := by
  refine ⟨fun k => life_reset_present k none .cb, rfl, rfl, rfl, fun i k p hi hc => ?_⟩
  obtain ⟨cmd, he⟩ := exec_eq_requireReady (State.reset.present k p) hi hc
  rw [he]
  cases hu : (State.reset.present k p).hasUnit i.unit with
  | true => exact .inl (requireReady_of_unconstructed cmd hu (life_reset_present k p _))
  | false => exact .inr (requireReady_of_absent cmd hu)

/-! ## What a command leaves in each unit -/

/-- The ClockBridge of the addressed node after `CB.CONSTRUCT`: rate 0 is a `ConfigFault` (`43_clockbridge.md` R211). -/
def cbAfterConstruct (sr : Imm) (b : ClockBridge) : ClockBridge :=
  if sr = 0#24 then { b with life := .faulted sr } else cbConstructed sr

/-- The ClockBridge of the addressed node after a command. -/
def cbAfter (c : Config) : Instr → ClockBridge → ClockBridge
  | .cbConstruct sr, b => cbAfterConstruct sr b
  | .cbReset, b => { b with resNum := 0 }
  | .cbTick, b => ticked c b
  | _, b => b

/-- WG after a command. -/
def wgAfter (c : Config) : Instr → WaveformGenerator → WaveformGenerator
  | .wgConstruct, _ => wgConstructed c
  | .wgReset, w => wgWithReset c w
  | .wgClock n, w => (wgCycle c)^[n.toNat] w
  | .wgWrfreq f, w => { w with frequency := clampToBits c.accBits f }
  | .wgWrpw p, w => { w with pulseWidth := clampToBits c.pwBits p }
  | .wgWrwave mask, w => { w with waveformSelect := mask }
  | .wgWrmodel bit, w => { w with chipModel := modelOf bit }
  | _, w => w

/-- EG after a command. -/
def egAfter (c : Config) : Instr → EnvelopeGenerator → EnvelopeGenerator
  | .egConstruct, _ => egConstructed c
  | .egReset, e => egWithReset c e
  | .egClock n, e => (egCycle c)^[n.toNat] e
  | .egWradsr att dec sus rel, e => egWithAdsr c att dec sus rel e
  | .egWrgate bit, e => egWithGate c (flagOf bit) e
  | _, e => e

/-- FL after a command that came with the values `p` on the sample ports: none where a filter voltage leaves its range
or the voice index names no voice. -/
def flAfter (c : Config) (p : SamplePorts) : Instr → FilterUnit → Option FilterUnit
  | .flConstruct, _ => some (flConstructed c)
  | .flReset, f => some (flWithReset f)
  | .flClock n, f => (flClocked c p n.toNat f).toOption
  | .flWrfc fc, f => some (refreshW0 c { f with cutoff := clampToMax c.cutoffMax fc })
  | .flWrres res, f => some (refreshQ c { f with resonance := clampTo 4 15 res })
  | .flWrboost b, f => some (refreshQ c { f with resonanceBoost := clampTo 8 255 b })
  | .flWrroute mask, f => some { f with routing := mask }
  | .flWrmode mask, f => some { f with mode := mask }
  | .flWrvol v, f => some { f with volume := clampTo 4 15 v }
  | .flWrvvol k val, f =>
    (voiceIndex k).map fun i : Fin 3 => { f with voiceVolume := f.voiceVolume.set i (clampToMax c.unityVolume val) }
  | .flWrdither bit, f => some { f with ditherEnable := flagOf bit }
  | .flWrmodel bit, f => some (refreshW0 c { f with chipModel := modelOf bit })
  | _, f => some f

/-- The units of `t` are those of `s` after the command `i`. -/
structure UnitsAfter (c : Config) (i : Instr) (s t : State) : Prop where
  cbs : t.cbs = s.cbs.set s.sel (cbAfter c i s.cb)
  wg : t.wg = wgAfter c i s.wg
  eg : t.eg = egAfter c i s.eg
  fl : flAfter c s.portValues i s.fl = some t.fl

/-- A command that answered a next state left every unit as the four functions say. -/
theorem execAt_next_units {c : Config} {i : Instr} {s t : State} (h : execAt c i s = .next t) : UnitsAfter c i s t := by
  have hcbs : s.cbs = s.cbs.set s.sel s.cb := (PerNode.set_get_self _ _).symm
  cases i <;> simp only [execAt] at h
  case cbConstruct sr =>
    obtain ⟨-, h⟩ := requirePresent_next h
    split at h
    · next h0 =>
      obtain rfl := (done_eq_next _ _).mp h
      exact ⟨congrArg (s.cbs.set s.sel) (if_pos h0).symm, rfl, rfl, rfl⟩
    · next h0 =>
      obtain rfl := (done_eq_next _ _).mp h
      exact ⟨congrArg (s.cbs.set s.sel) (if_neg h0).symm, rfl, rfl, rfl⟩
  case cbReset =>
    obtain ⟨-, h⟩ := requireReady_next h
    obtain rfl := (done_eq_next _ _).mp h
    exact ⟨rfl, rfl, rfl, rfl⟩
  case cbTick =>
    obtain ⟨-, h⟩ := requireReady_next h
    obtain rfl := (doneWith_eq_next _ _ _).mp h
    exact ⟨rfl, rfl, rfl, rfl⟩
  case wgConstruct | egConstruct | flConstruct =>
    obtain ⟨-, h⟩ := requirePresent_next h
    obtain rfl := (done_eq_next _ _).mp h
    exact ⟨hcbs, rfl, rfl, rfl⟩
  case wgReset | wgClock | wgWrfreq | wgWrpw | wgWrwave | wgWrmodel | egReset | egClock | egWradsr | egWrgate
    | flReset | flWrfc | flWrres | flWrboost | flWrroute | flWrmode | flWrvol | flWrdither | flWrmodel =>
    obtain ⟨-, h⟩ := requireReady_next h
    obtain rfl := (done_eq_next _ _).mp h
    exact ⟨hcbs, rfl, rfl, rfl⟩
  case flWrvvol k val =>
    unfold flWrvvolAt at h
    split at h
    · next v hv =>
      obtain ⟨-, h⟩ := requireReady_next h
      obtain rfl := (done_eq_next _ _).mp h
      exact ⟨hcbs, rfl, rfl, by rw [flAfter, hv]; rfl⟩
    · cases h
  case flClock n =>
    obtain ⟨-, h⟩ := requireReady_next h
    obtain ⟨f, hf, rfl⟩ := finishFilter_next h
    exact ⟨hcbs, rfl, rfl, by rw [flAfter, hf]; rfl⟩
  case wgOut =>
    obtain ⟨-, h⟩ := requireReady_next h
    rcases answerWave_cases (wgOutput c s.wg) s with ⟨v, -, he⟩ | ⟨-, he⟩
    all_goals
      rw [he] at h
      cases h
      exact ⟨hcbs, rfl, rfl, rfl⟩
  case egOut | flOut =>
    obtain ⟨-, h⟩ := requireReady_next h
    obtain rfl := (doneWith_eq_next _ _ _).mp h
    exact ⟨hcbs, rfl, rfl, rfl⟩

/-- `FL.CLOCK` leaves what its sub-steps end in. -/
theorem flClocked_of_flAfter {c : Config} {p : SamplePorts} {n : Imm} {f g : FilterUnit}
    (h : flAfter c p (.flClock n) f = some g) : flClocked c p n.toNat f = .ok g := by
  rw [flAfter] at h
  cases hr : flClocked c p n.toNat f with
  | ok f' =>
    rw [hr] at h
    cases h
    rfl
  | error e =>
    rw [hr] at h
    cases h

/-! ## One writer for each register target -/

/-- No number of cycles writes a register target of WG (`10_state.md` R55). -/
theorem wgCycle_iterate_frame (c : Config) (n : Nat) (w : WaveformGenerator) :
    ∃ acc sr, (wgCycle c)^[n] w = { w with accumulator := acc, shiftRegister := sr } := by
  refine Function.Iterate.rec (fun v => ∃ acc sr, v = { w with accumulator := acc, shiftRegister := sr })
    ⟨w.accumulator, w.shiftRegister, rfl⟩ ?_ n
  rintro _ ⟨acc, sr, rfl⟩
  exact ⟨_, _, wgCycle_frame _ _⟩

/-- The four ADSR registers (`10_state.md` R37). -/
def EnvelopeGenerator.adsr (e : EnvelopeGenerator) : BitVec 4 × BitVec 4 × BitVec 4 × BitVec 4 :=
  (e.attack, e.decay, e.sustain, e.release)

theorem attackEvent_adsr (c : Config) (e : EnvelopeGenerator) : (attackEvent c e).adsr = e.adsr := by
  have htop (e' : EnvelopeGenerator) : (enterDecayAtTop c e').adsr = e'.adsr := by
    rcases enterDecayAtTop_cases c e' with ⟨-, he⟩ | ⟨-, he⟩ <;> rw [he]
    rfl
  rw [attackEvent, htop]
  rcases stepUp_cases c { e with exponentialCounter := 0 } with ⟨-, he⟩ | ⟨-, he⟩ <;> rw [he] <;> rfl

theorem zeroCheck_adsr (e : EnvelopeGenerator) : (zeroCheck e).adsr = e.adsr := by
  rcases zeroCheck_cases e with ⟨-, he⟩ | ⟨-, -, he⟩ | ⟨-, -, he⟩ <;> rw [he] <;> rfl

theorem expEvent_adsr (c : Config) (e : EnvelopeGenerator) : (expEvent c e).adsr = e.adsr := by
  rcases expEvent_cases c e with ⟨-, he⟩ | ⟨-, he⟩ <;> rw [he]
  · rfl
  · rw [zeroCheck_adsr]
    rcases expStep_cases c { e with exponentialCounter := 0 } with hs | ⟨-, -, -, hs⟩ <;> rw [hs] <;> rfl

theorem rateEvent_adsr (c : Config) (e : EnvelopeGenerator) : (rateEvent c e).adsr = e.adsr := by
  unfold rateEvent
  split
  · exact attackEvent_adsr c e
  · exact expEvent_adsr c e
  · exact expEvent_adsr c e
  · rfl

theorem egCycle_adsr (c : Config) (e : EnvelopeGenerator) : (egCycle c e).adsr = e.adsr := by
  rcases egCycle_cases c e with ⟨-, he⟩ | ⟨-, -, he⟩ | ⟨-, -, he⟩ <;> rw [he]
  · rfl
  · exact rateEvent_adsr c _
  · rfl

theorem egCycle_iterate_adsr (c : Config) (n : Nat) (e : EnvelopeGenerator) : ((egCycle c)^[n] e).adsr = e.adsr :=
  Function.Iterate.rec (fun v => v.adsr = e.adsr) rfl (fun v hv => (egCycle_adsr c v).trans hv) n

theorem egWithGate_adsr (c : Config) (bit : Bool) (e : EnvelopeGenerator) : (egWithGate c bit e).adsr = e.adsr := by
  unfold egWithGate
  split
  · rfl
  · split <;> rfl

/-- `FL.CLOCK` writes the sums, the voltages and the dither index alone. -/
theorem flClocked_frame {c : Config} {p : SamplePorts} {n : Nat} {f g : FilterUnit} (h : flClocked c p n f = .ok g) :
    g = { inputStage c p f with vbp := g.vbp, vlp := g.vlp, vhp := g.vhp } := (flIntegrate_ok h).1

theorem cbAfter_sampleRate (c : Config) {i : Instr} (b : ClockBridge) (hc : i.isConstruct = false) :
    (cbAfter c i b).sampleRate = b.sampleRate := by
  cases i with
  | cbConstruct => cases hc
  | _ => rfl

/-- The register targets of WG. -/
theorem wgAfter_one_writer (c : Config) {i : Instr} (w : WaveformGenerator) (hc : i.isConstruct = false) :
    ((wgAfter c i w).frequency ≠ w.frequency → ∃ f, i = .wgWrfreq f) ∧
    ((wgAfter c i w).pulseWidth ≠ w.pulseWidth → ∃ p, i = .wgWrpw p) ∧
    ((wgAfter c i w).waveformSelect ≠ w.waveformSelect → ∃ m, i = .wgWrwave m) ∧
    ((wgAfter c i w).chipModel ≠ w.chipModel → ∃ b, i = .wgWrmodel b) := by
  cases i with
  | wgConstruct => cases hc
  | wgClock n =>
    obtain ⟨acc, sr, he⟩ := wgCycle_iterate_frame c n.toNat w
    simp [wgAfter, he]
  | wgReset => simp [wgAfter, wgWithReset]
  | _ => simp [wgAfter]

/-- The register targets of EG, all written by `EG.WRADSR`. -/
theorem egAfter_one_writer (c : Config) {i : Instr} (e : EnvelopeGenerator) (hc : i.isConstruct = false)
    (hne : (egAfter c i e).adsr ≠ e.adsr) : ∃ a d su r, i = .egWradsr a d su r := by
  cases i with
  | egConstruct => cases hc
  | egClock n => exact absurd (egCycle_iterate_adsr c n.toNat e) hne
  | egWrgate bit => exact absurd (egWithGate_adsr c (flagOf bit) e) hne
  | egWradsr att dec sus rel => exact ⟨att, dec, sus, rel, rfl⟩
  | _ => exact absurd rfl hne

/-- The register targets of FL. -/
theorem flAfter_one_writer {c : Config} {p : SamplePorts} {i : Instr} {f g : FilterUnit} (hc : i.isConstruct = false)
    (h : flAfter c p i f = some g) :
    (g.voiceVolume ≠ f.voiceVolume → ∃ k v, i = .flWrvvol k v) ∧
    (g.ditherEnable ≠ f.ditherEnable → ∃ b, i = .flWrdither b) ∧
    (g.cutoff ≠ f.cutoff → ∃ fc, i = .flWrfc fc) ∧
    (g.resonance ≠ f.resonance → ∃ r, i = .flWrres r) ∧
    (g.resonanceBoost ≠ f.resonanceBoost → ∃ b, i = .flWrboost b) ∧
    (g.routing ≠ f.routing → ∃ m, i = .flWrroute m) ∧
    (g.mode ≠ f.mode → ∃ m, i = .flWrmode m) ∧
    (g.volume ≠ f.volume → ∃ v, i = .flWrvol v) ∧
    (g.chipModel ≠ f.chipModel → ∃ b, i = .flWrmodel b) := by
  cases i with
  | flConstruct => cases hc
  | flClock n =>
    rw [flClocked_frame (flClocked_of_flAfter h)]
    simp [inputStage]
  | flWrvvol k val =>
    obtain ⟨v, -, rfl⟩ := Option.map_eq_some_iff.mp h
    simp
  | _ =>
    obtain rfl := Option.some.inj h
    simp [flWithReset, refreshW0, refreshQ]

/-- Settles O51: a command leaves in each unit what `UnitsAfter` says, and there each target has one writer. -/
theorem registerTargetsHaveOneWriter : Obligations.RegisterTargetsHaveOneWriter := by
  intro i s t hc ht
  rw [← execAt_nodeConfig] at ht
  obtain ⟨hcbs, hwg, heg, hfl⟩ := execAt_next_units ht
  obtain ⟨hfreq, hpw, hwave, hmodel⟩ := wgAfter_one_writer nodeConfig s.wg hc
  obtain ⟨hvol, hdither, hcutoff, hres, hboost, hroute, hmode, hvolume, hflModel⟩ := flAfter_one_writer hc hfl
  rw [hcbs, hwg, heg]
  refine ⟨hfreq, hpw, hwave, hmodel, egAfter_one_writer nodeConfig s.eg hc, hvol, hdither, hcutoff, hres, hboost,
    hroute, hmode, hvolume, hflModel, fun k => ?_⟩
  rw [PerNode.get_set]
  split
  · next hk => rw [cbAfter_sampleRate nodeConfig s.cb hc, hk, State.cb]
  · rfl

/-! ## Each unit keeps its invariant

### ClockBridge, and power-on -/

theorem ClockBridge.powerOn_inv : ClockBridge.powerOn.Inv := ⟨nofun, nofun⟩

theorem cbAfterConstruct_inv (sr : Imm) (b : ClockBridge) : (cbAfterConstruct sr b).Inv := by
  unfold cbAfterConstruct
  split
  · next h0 => exact ⟨nofun, fun info hl => Life.faulted.inj hl ▸ h0⟩
  · next h0 =>
    have hpos : 0 < sr.toNat := Nat.pos_of_ne_zero fun hz => h0 (BitVec.eq_of_toNat_eq hz)
    exact ⟨fun _ => ⟨hpos, sr.isLt⟩, nofun⟩

/-- `CB.TICK` divides by the rate, which a residue below it makes positive. -/
theorem ClockBridge.Inv.after {c : Config} {b : ClockBridge} (h : b.Inv) (i : Instr) : (cbAfter c i b).Inv := by
  obtain ⟨hready, hinfo⟩ := h
  cases i with
  | cbConstruct sr => exact cbAfterConstruct_inv sr b
  | cbReset => exact ⟨fun hl => ⟨Nat.zero_lt_of_lt (hready hl).1, (hready hl).2⟩, hinfo⟩
  | cbTick => exact ⟨fun hl => ⟨Nat.mod_lt _ (Nat.zero_lt_of_lt (hready hl).1), (hready hl).2⟩, hinfo⟩
  | _ => exact ⟨hready, hinfo⟩

section
variable {c : Config} (hc : c.WellFormed)
include hc

theorem wgConstructed_inv : (wgConstructed c).Inv c where
  life := nofun
  accumulator := Nat.two_pow_pos _
  frequency := Nat.two_pow_pos _
  pulseWidth := Nat.two_pow_pos _
  shiftRegister := c.lfsrReset.isLt
  noise := fun h => hc.lfsrReset_ne (BitVec.eq_of_toNat_eq h)

theorem WaveformGenerator.powerOn_inv : (WaveformGenerator.powerOn c).Inv c :=
  { wgConstructed_inv hc with life := nofun }

theorem expPeriodAtZero_spec : c.expBp 0 = some (expPeriodAtZero c) := by
  obtain ⟨p, hp⟩ := Option.isSome_iff_exists.mp hc.expBp_zero
  rw [expPeriodAtZero, hp]
  rfl

theorem egConstructed_inv : (egConstructed c).Inv c where
  life := nofun
  idle := fun _ => ⟨rfl, rfl⟩
  zero_held := fun _ _ => rfl
  held_zero := fun _ => rfl
  attack := nofun
  gate := by simp [egConstructed]
  period := rfl
  rateCounter := ⟨0, hc.rate_pos 0⟩
  expPeriod := ⟨0, expPeriodAtZero_spec hc⟩
  expCounter := hc.expBp_pos 0 _ (expPeriodAtZero_spec hc)

theorem EnvelopeGenerator.powerOn_inv : (EnvelopeGenerator.powerOn c).Inv c :=
  { egConstructed_inv hc with life := nofun }

end

theorem flConstructed_inv (c : Config) : (flConstructed c).Inv c where
  life := nofun
  w0 := rfl
  q := rfl
  volumes := fun k => by fin_cases k <;> exact Nat.le_refl _
  cutoff := Nat.zero_le _
  vhp := fitsSigned_zero _
  vbp := fitsSigned_zero _
  vlp := fitsSigned_zero _
  vi := fitsSigned_zero _
  vnf := fitsSigned_zero _
  vnf_vBits := fitsSigned_zero _

theorem FilterUnit.powerOn_inv (c : Config) : (FilterUnit.powerOn c).Inv c :=
  { flConstructed_inv c with
    life := nofun
    q := by simp [FilterUnit.powerOn, q1024Of, qOf] }

theorem resetAt_inv {c : Config} (hc : c.WellFormed) : (State.resetAt c).Inv c where
  cbs := fun k => by cases k <;> exact ClockBridge.powerOn_inv
  wg := WaveformGenerator.powerOn_inv hc
  eg := EnvelopeGenerator.powerOn_inv hc
  fl := FilterUnit.powerOn_inv c
  ports := rfl

/-- Settles O54: at power-on each unit has its invariant, as after its `CONSTRUCT`, and no port holds a value. -/
theorem invariantHoldsAtPowerOn : Obligations.InvariantHoldsAtPowerOn :=
  ⟨fun _ hc => resetAt_inv hc, resetAt_inv nodeConfig_wellFormed⟩

/-! ### WG -/

/-- The proviso of `10_state.md` R57 (h): a step of the noise register maps no non-zero value to 0. -/
def KeepsNoise (c : Config) : Prop := ∀ r : Nat, r < 2 ^ c.lfsrBits → r ≠ 0 → lfsrStep c r ≠ 0

/-- A cycle reduces the accumulator, and steps the noise register at most once. -/
theorem WaveformGenerator.Inv.cycle {c : Config} {w : WaveformGenerator} (hnoise : KeepsNoise c) (h : w.Inv c) :
    (wgCycle c w).Inv c := by
  have hsr : (wgCycle c w).shiftRegister < 2 ^ c.lfsrBits ∧ (wgCycle c w).shiftRegister ≠ 0 := by
    rcases wgCycle_shiftRegister c w with he | he <;> rw [he]
    · exact ⟨lfsrStep_lt c _, hnoise _ h.shiftRegister h.noise⟩
    · exact ⟨h.shiftRegister, h.noise⟩
  exact { h with
    accumulator := Nat.mod_lt _ (Nat.two_pow_pos _), shiftRegister := hsr.1, noise := hsr.2 }

theorem WaveformGenerator.Inv.after {c : Config} {w : WaveformGenerator} (hc : c.WellFormed)
    (hnoise : KeepsNoise c) (h : w.Inv c) (i : Instr) : (wgAfter c i w).Inv c := by
  cases i with
  | wgConstruct => exact wgConstructed_inv hc
  | wgReset =>
    obtain ⟨-, hacc, -, -, hsr, hne⟩ := wgConstructed_inv hc
    exact { h with accumulator := hacc, shiftRegister := hsr, noise := hne }
  | wgClock n => exact Function.Iterate.rec (WaveformGenerator.Inv c) h (fun _ hw => hw.cycle hnoise) n.toNat
  | wgWrfreq f => exact { h with frequency := clampToBits_lt _ _ }
  | wgWrpw p => exact { h with pulseWidth := clampToBits_lt _ _ }
  | wgWrwave | wgWrmodel => exact { h with }
  | _ => exact h

/-! ### EG -/

section
variable {c : Config} {e : EnvelopeGenerator} (hc : c.WellFormed) (h : e.Inv c)
include hc h

theorem EnvelopeGenerator.Inv.expPeriod_pos : 0 < e.exponentialCounterPeriod := by
  obtain ⟨v, hv⟩ := h.expPeriod
  exact hc.expBp_pos v _ hv

theorem EnvelopeGenerator.Inv.clearExpCounter : Inv c { e with exponentialCounter := 0 } :=
  have hpos := h.expPeriod_pos hc
  { h with expCounter := hpos }

theorem EnvelopeGenerator.Inv.clearRateCounter : Inv c { e with rateCounter := 0 } :=
  { h with rateCounter := ⟨0, hc.rate_pos 0⟩ }

/-- Outside Idle the level may become `v`, with the exponential counter cleared and the period of `v`, where
`hold_zero` then says just whether `v` is 0, and no Attack is at 0. -/
theorem EnvelopeGenerator.Inv.setLevel (v : BitVec 8) (hold : Bool) (hidle : e.state ≠ .idle)
    (hattack : e.state = .attack → v ≠ 0#8) (hhold : hold = true ↔ v = 0#8) (hexp : e.exponentialCounter = 0) :
    Inv c { e with
      envelopeCounter := v
      holdZero := hold
      exponentialCounterPeriod := (c.expBp v).getD e.exponentialCounterPeriod } :=
  have hperiod : ∃ u, c.expBp u = some ((c.expBp v).getD e.exponentialCounterPeriod) := by
    cases hv : c.expBp v with
    | some p => exact ⟨v, hv⟩
    | none => exact h.expPeriod
  { h with
    idle := fun hs => absurd hs hidle
    zero_held := fun _ => hhold.mpr
    held_zero := hhold.mp
    attack := fun hs => Bool.eq_false_iff.mpr fun hz => hattack hs (hhold.mp hz)
    expPeriod := hperiod
    expCounter := by
      obtain ⟨u, hu⟩ := hperiod
      exact hexp ▸ hc.expBp_pos u _ hu }

end

section
variable {c : Config} {e : EnvelopeGenerator}

theorem EnvelopeGenerator.Inv.enterDecayAtTop (h : e.Inv c) (hs : e.state = .attack) :
    (enterDecayAtTop c e).Inv c := by
  rcases enterDecayAtTop_cases c e with ⟨htop, he⟩ | ⟨-, he⟩ <;> rw [he]
  · have hgate : e.gate = true := h.gate.mpr (.inl hs)
    exact { h with
      idle := nofun
      zero_held := fun _ h0 => absurd (htop.symm.trans h0) (by decide)
      attack := nofun
      gate := ⟨fun _ => .inr rfl, fun _ => hgate⟩
      period := rfl }
  · exact h

theorem EnvelopeGenerator.Inv.attackEvent (hc : c.WellFormed) (h : e.Inv c) (hs : e.state = .attack) :
    (attackEvent c e).Inv c := by
  have h0 := h.clearExpCounter hc
  rw [Machine.attackEvent]
  rcases stepUp_cases c { e with exponentialCounter := 0 } with ⟨hlt, he⟩ | ⟨-, he⟩ <;> rw [he]
  · have hne : e.envelopeCounter + 1 ≠ 0#8 := fun hz => by
      have hup := level_up_toNat hlt
      rw [hz] at hup
      exact absurd hup (Nat.succ_ne_zero _).symm
    have hhold : e.holdZero = true ↔ e.envelopeCounter + 1 = 0#8 := iff_of_false (by simp [h.attack hs]) hne
    exact (h0.setLevel hc _ e.holdZero (by simp [hs]) (fun _ => hne) hhold rfl).enterDecayAtTop hs
  · exact h0.enterDecayAtTop hs

theorem EnvelopeGenerator.Inv.zeroCheck (h : e.Inv c) (hs : e.state ≠ .attack) : (zeroCheck e).Inv c := by
  rcases zeroCheck_cases e with ⟨-, he⟩ | ⟨h0, hr, he⟩ | ⟨h0, -, he⟩ <;> rw [he]
  · exact h
  · have hgate : ¬ e.gate = true := by simp [h.gate, hr]
    exact { h with
      idle := fun _ => ⟨h0, rfl⟩
      zero_held := fun _ _ => rfl
      held_zero := fun _ => h0
      attack := nofun
      gate := by simp [hgate]
      period := by rw [h.period, hr]; rfl }
  · exact { h with
      idle := fun _ => ⟨h0, rfl⟩
      zero_held := fun _ _ => rfl
      held_zero := fun _ => h0
      attack := fun hs' => absurd hs' hs }

/-- The check sets a clear `hold_zero` at level 0 itself. -/
theorem zeroCheck_of_not_held (hz : e.holdZero = false) :
    zeroCheck e = zeroCheck { e with holdZero := decide (e.envelopeCounter = 0#8) } := by
  by_cases h0 : e.envelopeCounter = 0#8
  · simp [zeroCheck, h0]
  · simp [zeroCheck, h0, ← hz]

theorem EnvelopeGenerator.Inv.expEvent (hc : c.WellFormed) (h : e.Inv c) (hattack : e.state ≠ .attack)
    (hidle : e.state ≠ .idle) : (expEvent c e).Inv c := by
  rcases expEvent_cases c e with ⟨hlt, he⟩ | ⟨-, he⟩ <;> rw [he]
  · exact { h with expCounter := hlt }
  · have h0 := h.clearExpCounter hc
    rcases expStep_cases c { e with exponentialCounter := 0 } with hs | ⟨hz, -, -, hs⟩ <;> rw [hs]
    · exact h0.zeroCheck hattack
    · rw [zeroCheck_of_not_held]
      · exact (h0.setLevel hc _ _ hidle (fun ha => absurd ha hattack) decide_eq_true_iff rfl).zeroCheck hattack
      · exact hz

theorem EnvelopeGenerator.Inv.rateEvent (hc : c.WellFormed) (h : e.Inv c) : (rateEvent c e).Inv c := by
  unfold Machine.rateEvent
  split
  · next hs => exact h.attackEvent hc hs
  · next hs => exact h.expEvent hc (by simp [hs]) (by simp [hs])
  · next hs => exact h.expEvent hc (by simp [hs]) (by simp [hs])
  · exact h

/-- The current period is that of some rate. -/
theorem EnvelopeGenerator.Inv.period_eq_rate (h : e.Inv c) : ∃ r, e.rateCounterPeriod = c.rate r := by
  rw [h.period]
  cases e.state with
  | attack | decay | release | idle => exact ⟨_, rfl⟩

theorem EnvelopeGenerator.Inv.cycle (hc : c.WellFormed) (h : e.Inv c) : (egCycle c e).Inv c := by
  rcases egCycle_cases c e with ⟨-, he⟩ | ⟨-, -, he⟩ | ⟨-, hlt, he⟩ <;> rw [he]
  · exact { h with }
  · exact (h.clearRateCounter hc).rateEvent hc
  · obtain ⟨r, hr⟩ := h.period_eq_rate
    exact { h with rateCounter := ⟨r, hr ▸ hlt⟩ }

/-- Only an edge acts: a rise enters Attack, a fall Release, each with its period. -/
theorem EnvelopeGenerator.Inv.withGate (h : e.Inv c) (bit : Bool) : (egWithGate c bit e).Inv c := by
  unfold egWithGate
  split
  · next hrise =>
    have hbit : bit = true := (Bool.and_eq_true_iff.mp hrise).2
    exact { h with
      idle := nofun
      zero_held := nofun
      held_zero := nofun
      attack := fun _ => rfl
      gate := ⟨fun _ => .inl rfl, fun _ => hbit⟩
      period := rfl }
  · split
    · next hfall =>
      have hbit : bit = false := by simpa using (Bool.and_eq_true_iff.mp hfall).2
      exact { h with
        idle := nofun
        zero_held := nofun
        attack := nofun
        gate := by simp [refreshPeriod, hbit]
        period := rfl }
    · exact h

theorem EnvelopeGenerator.Inv.after (hc : c.WellFormed) (h : e.Inv c) (i : Instr) : (egAfter c i e).Inv c := by
  cases i with
  | egConstruct => exact egConstructed_inv hc
  | egReset => exact { egConstructed_inv hc with life := h.life, period := rfl }
  | egClock n => exact Function.Iterate.rec (EnvelopeGenerator.Inv c) h (fun _ he => he.cycle hc) n.toNat
  | egWradsr => exact { h with period := rfl }
  | egWrgate bit => exact h.withGate (flagOf bit)
  | _ => exact h

end

/-! ### FL -/

/-- The sums of the input stage fit 15 bits, and the sub-steps keep the voltages in range. -/
theorem FilterUnit.Inv.clocked {c : Config} {f g : FilterUnit} {p : SamplePorts} {n : Nat} (hbits : 15 ≤ c.vBits)
    (h : f.Inv c) (hg : flClocked c p n f = .ok g) : g.Inv c := by
  obtain ⟨he, hrange⟩ := flIntegrate_ok hg
  obtain ⟨hvbp, hvlp, hvhp⟩ := hrange h.vbp h.vlp h.vhp
  have hvnf := routedSum_fits c f p false h.volumes
  rw [he]
  exact { h with
    vbp := hvbp
    vlp := hvlp
    vhp := hvhp
    vi := routedSum_fits c f p true h.volumes
    vnf := hvnf
    vnf_vBits := fitsSigned_mono hbits hvnf }

theorem FilterUnit.Inv.reset {c : Config} {f : FilterUnit} (h : f.Inv c) : (flWithReset f).Inv c :=
  { h with
    vhp := fitsSigned_zero _
    vbp := fitsSigned_zero _
    vlp := fitsSigned_zero _
    vi := fitsSigned_zero _
    vnf := fitsSigned_zero _
    vnf_vBits := fitsSigned_zero _ }

theorem FilterUnit.Inv.setVolume {c : Config} {f : FilterUnit} (h : f.Inv c) (i : Fin 3) {v : Nat}
    (hv : v ≤ c.unityVolume) : Inv c { f with voiceVolume := f.voiceVolume.set i v } :=
  { h with
    volumes := fun k => by
      simp only [Fin.getElem_fin, Vector.getElem_set]
      split
      · exact hv
      · exact h.volumes k }

theorem FilterUnit.Inv.after {c : Config} {f g : FilterUnit} {p : SamplePorts} {i : Instr} (hbits : 15 ≤ c.vBits)
    (h : f.Inv c) (hg : flAfter c p i f = some g) : g.Inv c := by
  cases i with
  | flClock n => exact h.clocked hbits (flClocked_of_flAfter hg)
  | flWrvvol k val =>
    obtain ⟨v, -, rfl⟩ := Option.map_eq_some_iff.mp hg
    exact h.setVolume v (clampToMax_le _ _)
  | flConstruct =>
    obtain rfl := Option.some.inj hg
    exact flConstructed_inv c
  | flReset =>
    obtain rfl := Option.some.inj hg
    exact h.reset
  | flWrfc fc =>
    obtain rfl := Option.some.inj hg
    exact { h with w0 := rfl, cutoff := clampToMax_le _ _ }
  | flWrmodel =>
    obtain rfl := Option.some.inj hg
    exact { h with w0 := rfl }
  | flWrres | flWrboost =>
    obtain rfl := Option.some.inj hg
    exact { h with q := rfl }
  | _ =>
    obtain rfl := Option.some.inj hg
    exact { h with }

/-! ## Every step keeps the invariant -/

/-- A step after a next state: nothing to do, or a command that executed. -/
theorem stepAt_next {c : Config} {s t : State} (h : stepAt c s = .next t) :
    (s.stream = [] ∧ t = s) ∨
      ∃ m rest i, s.stream = m :: rest ∧
        execAt c i ({ s with stream := rest }.present m.node m.ports) = .next t := by
  unfold stepAt at h
  split at h
  · next hs =>
    cases h
    exact .inl ⟨hs, rfl⟩
  · next m rest hs =>
    obtain ⟨i, -, he⟩ := issueAt_next h
    exact .inr ⟨m, rest, i, hs, he⟩

/-- From a state whose units have their invariants, a command leaves one that has the whole invariant: what stands on
the sample ports while it executes is gone after it. -/
theorem execAt_keeps_inv {c : Config} {i : Instr} {s t : State} (hc : c.WellFormed) (hbits : 15 ≤ c.vBits)
    (hnoise : KeepsNoise c) (hcbs : ∀ k, (s.cbs.get k).Inv)
    (hwg : s.wg.Inv c) (heg : s.eg.Inv c) (hfl : s.fl.Inv c) (h : execAt c i s = .next t) : t.Inv c := by
  obtain ⟨hcbs', hwg', heg', hfl'⟩ := execAt_next_units h
  refine ⟨fun k => ?_, hwg' ▸ hwg.after hc hnoise i, heg' ▸ heg.after hc i, hfl.after hbits hfl', execAt_next_ports h⟩
  rw [hcbs', PerNode.get_set]
  split
  · exact (hcbs s.sel).after i
  · exact hcbs k

theorem stepAt_keeps_inv {c : Config} {s t : State} (hc : c.WellFormed) (hbits : 15 ≤ c.vBits)
    (hnoise : KeepsNoise c) (hs : s.Inv c) (h : stepAt c s = .next t) :
    t.Inv c := by
  rcases stepAt_next h with ⟨-, rfl⟩ | ⟨m, rest, i, -, he⟩
  · exact hs
  · obtain ⟨hcbs, hwg, heg, hfl, -⟩ := hs
    exact execAt_keeps_inv (s := { s with stream := rest }.present m.node m.ports) hc hbits hnoise hcbs hwg heg hfl he

/-- At the defaults the register shifts its top bit out, which is a tap: alone, it comes back as bit 0. -/
theorem nodeConfig_keepsNoise : KeepsNoise nodeConfig := by
  intro r hlt hne h
  obtain ⟨hshift, hbit⟩ := Nat.or_eq_zero_iff.mp h
  have htop : r = 2 ^ 22 := by
    change r < 2 ^ 23 at hlt
    change r * 2 % 2 ^ 23 = 0 at hshift
    omega
  subst htop
  exact absurd hbit (by decide)

/-- Settles O55: each unit keeps its invariant under every command (`ClockBridge.Inv.after` and the like). -/
theorem everyStepKeepsTheInvariant : Obligations.EveryStepKeepsTheInvariant := by
  refine ⟨fun s t hs h => ?_, fun c hc hbits hnoise s t hs h => stepAt_keeps_inv hc hbits hnoise hs h⟩
  rw [← stepAt_nodeConfig] at h
  exact stepAt_keeps_inv nodeConfig_wellFormed (by decide) nodeConfig_keepsNoise hs h

end Sys2Proof.Machine
end

section
/-! PROOFS. The statement of `20_memory.md`: an `OUT` writes no unit, and what an earlier answer left on the response
port is not read. -/

namespace Sys2Proof.Machine

/-! ## Two answers in a row -/

/-- A second answer stands where the first did. -/
@[simp] theorem State.answer_answer (s : State) (r r' : Option Word) : (s.answer r).answer r' = s.answer r' := by
  simp [State.answer]

/-- The gates read no response port. -/
@[simp] theorem requireReady_answer (u : UnitId) (s : State) (r : Option Word) (k : Result) :
    requireReady u (s.answer r) k = requireReady u s k := by
  cases u with
  | cb | wg | eg | fl => rfl

@[simp] theorem doneWith_answer (v : Int) (s : State) (r : Option Word) : doneWith v (s.answer r) = doneWith v s := by
  simp [doneWith]

@[simp] theorem answerWave_answer {bits : Nat} (o : WaveOut bits) (s : State) (r : Option Word) :
    answerWave o (s.answer r) = answerWave o s := by
  cases o with
  | value v => exact doneWith_answer _ s r
  | free => exact doneWith_answer _ s.useDraw r

/-! ## The three outputs -/

/-- What an `OUT` answers depends on nothing that an answer writes. -/
theorem execAt_out_answer (c : Config) {i : Instr} (hi : i ∈ [Instr.wgOut, .egOut, .flOut]) (s : State)
    (r : Option Word) : execAt c i (s.answer r) = execAt c i s := by
  obtain rfl | rfl | rfl : i = .wgOut ∨ i = .egOut ∨ i = .flOut := by simpa using hi
  · simp [execAt, wgOutAt]
  · simp [execAt, execEgOut]
  · simp [execAt, flOutAt]

/-- An `OUT` is an answer and nothing else, but for the draw of a free value (`40_waveform.md` R116). -/
theorem execAt_out_next {c : Config} {i : Instr} {s t : State} (hi : i ∈ [Instr.wgOut, .egOut, .flOut])
    (h : execAt c i s = .next t) : ∃ r, t = s.answer r ∨ t = s.useDraw.answer r := by
  obtain rfl | rfl | rfl : i = .wgOut ∨ i = .egOut ∨ i = .flOut := by simpa using hi
  · obtain ⟨-, h⟩ := requireReady_next h
    rcases answerWave_cases (wgOutput c s.wg) s with ⟨v, -, he⟩ | ⟨-, he⟩
    · exact ⟨_, .inl (Host.Outcome.next.inj (h.symm.trans he))⟩
    · exact ⟨_, .inr (Host.Outcome.next.inj (h.symm.trans he))⟩
  all_goals
    obtain ⟨-, h⟩ := requireReady_next h
    exact ⟨_, .inl ((doneWith_eq_next _ _ _).mp h).symm⟩

/-- Settles O48: the first `OUT` leaves an answer, which writes no unit and which the second does not read. -/
theorem outputsAreIdempotent : Obligations.OutputsAreIdempotent := by
  intro i s t hi h
  rw [← execAt_nodeConfig] at h
  obtain ⟨r, rfl | rfl⟩ := execAt_out_next hi h
  · refine ⟨⟨rfl, rfl, rfl, rfl⟩, fun _ => ?_⟩
    rw [← execAt_nodeConfig, execAt_out_answer nodeConfig hi, h]
  · exact ⟨⟨rfl, rfl, rfl, rfl⟩, fun hd => absurd hd (Nat.succ_ne_self s.draws)⟩

end Sys2Proof.Machine
end

section
/-! PROOFS. The statements of `30_encoding.md`: the decoder reads back what the encoder writes and rejects the reserved
words, `CLOCK` commands add up, and each result lies in its range. -/

namespace Sys2Proof

/-! ## Decode of encode -/

/-- Decoding an instruction's own word reads its row at its operand field (`30_encoding.md` R84). -/
theorem decode_encode_eq_decodeOp (i : Instr) : decode (encode i) = decodeOp (opcodeByte i).toNat (encodeImm i) := by
  obtain ⟨hop, himm⟩ := Laws.EncodingFields.fields_of_encode i
  rw [decode, hop, himm]

theorem decodeV_of_ne {k : BitVec 2} (val : BitVec 16) (hk : k ≠ 3#2) : decodeV k val = .ok (.flWrvvol k val) :=
  if_neg hk

/-- In every row the operand field carries each sub-field of the format, and the row cuts it out again
(`30_encoding.md` R81). -/
theorem decodeOp_encodeImm {i : Instr} (hi : i.WellFormed) :
    decodeOp (opcodeByte i).toNat (encodeImm i) = .ok i := by
  cases i with
  | cbConstruct | wgClock | wgWrfreq | wgWrpw | egClock | flClock | flWrfc | flWrres | flWrboost | flWrvol => rfl
  | cbReset | cbTick | wgConstruct | wgReset | wgOut | egConstruct | egReset | egOut | flConstruct | flReset | flOut =>
    rfl
  | wgWrwave | flWrroute | flWrmode | wgWrmodel | egWrgate | flWrdither | flWrmodel =>
    simp [opcodeByte, encodeImm, decodeOp]
  | egWradsr att dec sus rel => exact congrArg Except.ok (decodeA_append 0 att dec sus rel)
  | flWrvvol k val =>
    obtain ⟨hk, hval⟩ := immV_append 0#6 k val
    have hne : k ≠ 3#2 := by simpa [Instr.WellFormed, Instr.wellFormed] using hi
    calc decodeOp 0x3A (0#6 ++ (k ++ val))
      _ = decodeV (immVk (0#6 ++ (k ++ val))) (immVval (0#6 ++ (k ++ val))) := rfl
      _ = .ok (.flWrvvol k val) := by rw [hk, hval, decodeV_of_ne val hne]

/-- Settles O1: the word carries the row's byte and operand field, and the row reads its sub-fields back. -/
theorem encodedInstructionIsReadBack : Obligations.EncodedInstructionIsReadBack := fun i hi => by
  rw [decode_encode_eq_decodeOp, decodeOp_encodeImm hi]

/-! ## What a decoded word is -/

theorem decodeV_ok {k : BitVec 2} {val : BitVec 16} {i : Instr} (h : decodeV k val = .ok i) :
    k ≠ 3#2 ∧ i = .flWrvvol k val := by
  unfold decodeV at h
  split at h
  · cases h
  · next hk =>
    cases h
    exact ⟨hk, rfl⟩

/-- A row of the opcode map gives an instruction of that row (`30_encoding.md` R84), and no voice 3 (R90). -/
theorem decodeOp_ok {op : Nat} {imm : Imm} {i : Instr} (h : decodeOp op imm = .ok i) :
    i.WellFormed ∧ (opcodeByte i).toNat = op := by
  unfold decodeOp at h
  split at h
  -- Two rows do not answer at once: the reserved voice of `FL.WRVVOL`, and no row at all.
  case h_28 =>
    obtain ⟨hk, rfl⟩ := decodeV_ok h
    exact ⟨bne_iff_ne.mpr hk, rfl⟩
  case h_31 => split at h <;> cases h
  all_goals
    cases h
    exact ⟨rfl, rfl⟩

/-- Settles O3: a decoded instruction is well formed and of the row of its word's top byte, and O1 reads it back. -/
theorem decodedInstructionsAreWellFormed : Obligations.DecodedInstructionsAreWellFormed := fun w i h => by
  obtain ⟨hi, hop⟩ := decodeOp_ok h
  exact ⟨hi, BitVec.eq_of_toNat_eq hop, encodedInstructionIsReadBack i hi⟩

/-- Settles O2: each word is a literal, and the decoder evaluates on it. -/
theorem specWordsDecodeAsWritten : Obligations.SpecWordsDecodeAsWritten :=
  ⟨rfl, rfl, rfl, rfl, rfl, rfl, rfl, rfl, rfl, rfl, rfl, rfl⟩

/-! ## The bits a format does not name -/

/-- A slice of the operand field is that slice of the word (`30_encoding.md` R80). -/
theorem immOf_extractLsb' (w : Word) {start len : Nat} (h : start + len ≤ 24) :
    (immOf w).extractLsb' start len = w.extractLsb' start len := BitVec.extractLsb'_extractLsb'_of_le h

/-- The operand fields of two words that agree below bit `n` agree in each sub-field that lies there. -/
theorem subField_congr {n start len : Nat} {w v : Word} (h : w.extractLsb' 0 n = v.extractLsb' 0 n)
    (hle : start + len ≤ n := by decide) (hn : n ≤ 24 := by decide) :
    (immOf w).extractLsb' start len = (immOf v).extractLsb' start len := by
  have hslice (u : Word) : (immOf u).extractLsb' start len = (u.extractLsb' 0 n).extractLsb' start len := by
    rw [immOf_extractLsb' u (hle.trans hn), BitVec.extractLsb'_extractLsb'_of_le hle]
  rw [hslice, hslice, h]

/-- The four sub-fields of format `A` lie below bit 16 (`30_encoding.md` R81). -/
theorem decodeA_congr {w v : Word} (h : w.extractLsb' 0 16 = v.extractLsb' 0 16) :
    decodeA (immOf w) = decodeA (immOf v) := by
  unfold decodeA
  congr 1 <;> exact subField_congr h

/-- Words with one top byte decode alike where its row reads the same of both operand fields. -/
theorem decode_congr {w v : Word} (hop : opcodeOf w = opcodeOf v)
    (h : decodeOp (opcodeOf w).toNat (immOf w) = decodeOp (opcodeOf w).toNat (immOf v)) : decode w = decode v := by
  rw [decode, decode, ← hop, h]

section
variable {op : Nat} {x y : Imm}

/-! What the rows of each format read of the operand field (`30_encoding.md` R81). -/

theorem decodeOp_congr_of_formatN (h : op ∈ [0x01, 0x02, 0x10, 0x11, 0x13, 0x20, 0x21, 0x23, 0x30, 0x31, 0x33]) :
    decodeOp op x = decodeOp op y := by
  fin_cases h <;> rfl

theorem decodeOp_congr_of_formatM4 (h : op ∈ [0x16, 0x37]) (hx : immM4 x = immM4 y) :
    decodeOp op x = decodeOp op y := by
  fin_cases h <;> simp only [decodeOp, hx]

theorem decodeOp_congr_of_formatM3 (h : op ∈ [0x38]) (hx : immM3 x = immM3 y) : decodeOp op x = decodeOp op y := by
  obtain rfl := List.mem_singleton.mp h
  simp only [decodeOp, hx]

theorem decodeOp_congr_of_formatB (h : op ∈ [0x17, 0x25, 0x3B, 0x3C]) (hx : immB x = immB y) :
    decodeOp op x = decodeOp op y := by
  fin_cases h <;> simp only [decodeOp, hx]

theorem decodeOp_congr_of_formatA (h : op ∈ [0x24]) (hx : decodeA x = decodeA y) : decodeOp op x = decodeOp op y := by
  obtain rfl := List.mem_singleton.mp h
  simp only [decodeOp, hx]

theorem decodeOp_congr_of_formatV (h : op ∈ [0x3A]) (hk : immVk x = immVk y) (hval : immVval x = immVval y) :
    decodeOp op x = decodeOp op y := by
  obtain rfl := List.mem_singleton.mp h
  simp only [decodeOp, hk, hval]

end

/-- Settles O4: the rows of a format read its sub-fields alone, and these lie in the bits it names. -/
theorem ignoredBitsDoNotAffectDecoding : Obligations.IgnoredBitsDoNotAffectDecoding := by
  intro w v hop op
  refine ⟨fun h => decode_congr hop (decodeOp_congr_of_formatN h),
    fun h hx => decode_congr hop (decodeOp_congr_of_formatM4 h (subField_congr hx)),
    fun h hx => decode_congr hop (decodeOp_congr_of_formatM3 h (subField_congr hx)),
    fun h hx => decode_congr hop (decodeOp_congr_of_formatB h (subField_congr hx)),
    fun h hx => decode_congr hop (decodeOp_congr_of_formatA h (decodeA_congr hx)),
    fun h hx => decode_congr hop (decodeOp_congr_of_formatV h (subField_congr hx) (subField_congr hx))⟩

/-! ## Reserved words -/

/-- `cmd[31:24]` is `UNIT` above `OP` (`30_encoding.md` R80). -/
theorem opcodeOf_toNat (w : Word) :
    (opcodeOf w).toNat = 16 * (w.extractLsb' 28 4).toNat + (w.extractLsb' 24 4).toNat := by
  simp only [opcodeOf, BitVec.extractLsb'_toNat, Nat.shiftRight_eq_div_pow]
  omega

/-- The bytes that stand in no row: the `OP`s a unit does not have, and the absent units (`30_encoding.md` R90). -/
theorem decodeOp_of_not_row {op : Nat} (imm : Imm)
    (h : (0x03 ≤ op ∧ op < 0x10) ∨ (0x18 ≤ op ∧ op < 0x20) ∨ (0x26 ≤ op ∧ op < 0x30) ∨ 0x3D ≤ op) :
    decodeOp op imm = if op < 0x40 then .error .reservedOp else .error .reservedUnit := by
  unfold decodeOp
  split
  case h_31 => rfl
  all_goals omega

theorem decode_of_reservedUnit {w : Word} (h : 4 ≤ (w.extractLsb' 28 4).toNat) :
    decode w = .error .reservedUnit := by
  have hop := opcodeOf_toNat w
  rw [decode, decodeOp_of_not_row _ (by omega), if_neg (by omega)]

theorem decode_of_reservedOp {w : Word} {unit op : Nat} (hu : (w.extractLsb' 28 4).toNat = unit)
    (ho : (w.extractLsb' 24 4).toNat = op)
    (h : (unit = 0 ∧ 3 ≤ op) ∨ (unit = 1 ∧ 8 ≤ op) ∨ (unit = 2 ∧ 6 ≤ op) ∨ (unit = 3 ∧ 13 ≤ op)) :
    decode w = .error .reservedOp := by
  have hop := opcodeOf_toNat w
  have hlt := (w.extractLsb' 24 4).isLt
  rw [decode, decodeOp_of_not_row _ (by omega), if_pos (by omega)]

theorem decode_of_reservedVoice {w : Word} (hu : (w.extractLsb' 28 4).toNat = 3)
    (ho : (w.extractLsb' 24 4).toNat = 10) (hk : w.extractLsb' 16 2 = 3#2) : decode w = .error .reservedVoice := by
  have hop : (opcodeOf w).toNat = 0x3A := by rw [opcodeOf_toNat, hu, ho]
  calc decode w
    _ = decodeV (immVk (immOf w)) (immVval (immOf w)) := by rw [decode, hop]; rfl
    _ = .error .reservedVoice := if_pos ((immOf_extractLsb' w (by decide)).trans hk)

end Sys2Proof

namespace Sys2Proof.Machine

/-- A `CONSTRUCT` stands behind the presence gate of its unit (`30_encoding.md` R90, `60_exceptions.md` R253). -/
theorem exec_eq_requirePresent {i : Instr} (s : State) (hc : i.isConstruct = true) :
    ∃ k, exec i s = requirePresent i.unit s k := by
  cases i with
  | cbConstruct | wgConstruct | egConstruct | flConstruct => exact ⟨_, rfl⟩
  | _ => cases hc

/-- Either gate refuses a command to a unit the node does not contain. -/
theorem exec_of_absent {i : Instr} {s : State} (hi : i.WellFormed) (hu : s.hasUnit i.unit = false) :
    exec i s = .refused .unitAbsent := by
  cases hc : i.isConstruct with
  | true =>
    obtain ⟨k, he⟩ := exec_eq_requirePresent s hc
    rw [he, requirePresent_of_absent k hu]
  | false =>
    obtain ⟨k, he⟩ := exec_eq_requireReady s hi hc
    rw [he, requireReady_of_absent k hu]

theorem hasUnit_present_of_ne {u : UnitId} {k : NodeId} (s : State) (p : Option SamplePorts) (hcb : u ≠ .cb)
    (hk : u ≠ generatorOf k) : (s.present k p).hasUnit u = false := by
  simp [State.hasUnit, hcb, hk]

/-- Settles O6: a reserved word does not decode, and a word for an absent unit stops at the gate of that unit. -/
theorem reservedWordsAreRefused : Obligations.ReservedWordsAreRefused := by
  intro s c rest hs unit op
  rw [step_cons hs]
  refine ⟨fun hu => issue_of_error _ (decode_of_reservedUnit hu),
    fun h => issue_of_error _ (decode_of_reservedOp rfl rfl h),
    fun ⟨hu, ho, hk⟩ => issue_of_error _ (decode_of_reservedVoice hu ho hk), fun i hd hcb hk => ?_⟩
  obtain ⟨hi, -⟩ := decodedInstructionsAreWellFormed c.word i hd
  rw [issue_of_ok _ hd, exec_of_absent hi (hasUnit_present_of_ne _ _ hcb hk)]

/-! ## Clock commands -/

/-! No cycle of EG writes its life state: one lemma per operation of the cycle. -/

@[simp] theorem stepUp_life (c : Config) (e : EnvelopeGenerator) : (stepUp c e).life = e.life := by
  rcases stepUp_cases c e with ⟨-, he⟩ | ⟨-, he⟩ <;> rw [he]

@[simp] theorem enterDecayAtTop_life (c : Config) (e : EnvelopeGenerator) : (enterDecayAtTop c e).life = e.life := by
  rcases enterDecayAtTop_cases c e with ⟨-, he⟩ | ⟨-, he⟩ <;> rw [he]

@[simp] theorem expStep_life (c : Config) (e : EnvelopeGenerator) : (expStep c e).life = e.life := by
  rcases expStep_cases c e with he | ⟨-, -, -, he⟩ <;> rw [he]

@[simp] theorem zeroCheck_life (e : EnvelopeGenerator) : (zeroCheck e).life = e.life := by
  rcases zeroCheck_cases e with ⟨-, he⟩ | ⟨-, -, he⟩ | ⟨-, -, he⟩ <;> rw [he]

@[simp] theorem expEvent_life (c : Config) (e : EnvelopeGenerator) : (expEvent c e).life = e.life := by
  rcases expEvent_cases c e with ⟨-, he⟩ | ⟨-, he⟩ <;> simp [he]

@[simp] theorem rateEvent_life (c : Config) (e : EnvelopeGenerator) : (rateEvent c e).life = e.life := by
  unfold rateEvent
  split <;> simp [attackEvent]

@[simp] theorem egCycle_life (c : Config) (e : EnvelopeGenerator) : (egCycle c e).life = e.life := by
  rcases egCycle_cases c e with ⟨-, he⟩ | ⟨-, -, he⟩ | ⟨-, -, he⟩ <;> simp [he]

theorem egCycle_iterate_life (c : Config) (n : Nat) (e : EnvelopeGenerator) : ((egCycle c)^[n] e).life = e.life :=
  Function.Iterate.rec (fun v => v.life = e.life) rfl (fun v hv => (egCycle_life c v).trans hv) n

theorem wgCycle_iterate_life (c : Config) (n : Nat) (w : WaveformGenerator) : ((wgCycle c)^[n] w).life = w.life := by
  obtain ⟨acc, sr, he⟩ := wgCycle_iterate_frame c n w
  rw [he]

/-- Cycles of two commands in a row, where the sum of the operands is an operand (`30_encoding.md` R86). -/
theorem iterate_toNat_add {α : Type} (f : α → α) {m n : Imm} (h : m.toNat + n.toNat < 2 ^ 24) (x : α) :
    f^[n.toNat] (f^[m.toNat] x) = f^[(m + n).toNat] x := by
  rw [BitVec.toNat_add_of_lt h, Nat.add_comm, Function.iterate_add_apply]

/-- `WG.CLOCK n` on a WG that accepts it: `n` cycles, and no result. -/
theorem exec_wgClock {s : State} (h : s.Accepts .wg) (n : Imm) :
    exec (.wgClock n) s = .next ((s.setWg ((wgCycle nodeConfig)^[n.toNat] s.wg)).answer none) :=
  requireReady_of_accepts _ h

/-- `EG.CLOCK n` on an EG that accepts it: `n` cycles, and no result. -/
theorem exec_egClock {s : State} (h : s.Accepts .eg) (n : Imm) :
    exec (.egClock n) s = .next ((s.setEg ((egCycle nodeConfig)^[n.toNat] s.eg)).answer none) :=
  requireReady_of_accepts _ h

theorem exec_wgClock_add {m n : Imm} {s : State} (h : s.Accepts .wg) (hmn : m.toNat + n.toNat < 2 ^ 24) :
    ∃ t, exec (.wgClock m) s = .next t ∧ exec (.wgClock n) t = exec (.wgClock (m + n)) s := by
  refine ⟨_, exec_wgClock h m, ?_⟩
  have ht : ((s.setWg ((wgCycle nodeConfig)^[m.toNat] s.wg)).answer none).Accepts .wg :=
    ⟨h.1, (wgCycle_iterate_life _ _ _).trans h.2⟩
  rw [exec_wgClock ht, exec_wgClock h, ← iterate_toNat_add _ hmn]
  simp [State.answer, State.setWg]

theorem exec_egClock_add {m n : Imm} {s : State} (h : s.Accepts .eg) (hmn : m.toNat + n.toNat < 2 ^ 24) :
    ∃ t, exec (.egClock m) s = .next t ∧ exec (.egClock n) t = exec (.egClock (m + n)) s := by
  refine ⟨_, exec_egClock h m, ?_⟩
  have ht : ((s.setEg ((egCycle nodeConfig)^[m.toNat] s.eg)).answer none).Accepts .eg :=
    ⟨h.1, (egCycle_iterate_life _ _ _).trans h.2⟩
  rw [exec_egClock ht, exec_egClock h, ← iterate_toNat_add _ hmn]
  simp [State.answer, State.setEg]

/-- Settles O47: a clock command is its cycles iterated, and after it the unit still accepts the second one. -/
theorem clockCommandsAdd : Obligations.ClockCommandsAdd := by
  intro m n s hmn
  refine ⟨fun h => ⟨?_, exec_wgClock_add h hmn⟩, fun h => ⟨?_, exec_egClock_add h hmn⟩⟩
  · rw [exec_wgClock h, State.answer, ← s.hasUnit_wg_iff.mp h.1]
    rfl
  · rw [exec_egClock h, State.answer, ← s.hasUnit_eg_iff.mp h.1]
    rfl

/-! ## Results -/

/-- A result in a range that fits the port is read back from it in that range (`30_encoding.md` R88). -/
theorem toInt_resultWord_bounds {v lo hi : Int} (hlo : lo ≤ v) (hhi : v ≤ hi) (hport : -2 ^ 31 ≤ lo ∧ hi < 2 ^ 31) :
    lo ≤ (resultWord v).toInt ∧ (resultWord v).toInt ≤ hi := by
  have hfits : -2 ^ 31 ≤ v ∧ v < 2 ^ 31 := ⟨hport.1.trans hlo, hhi.trans_lt hport.2⟩
  rw [resultWord_of_fits ((fitsSigned_iff v).mpr ⟨hfits.1, Int.le_sub_one_of_lt hfits.2⟩),
    BitVec.toInt_ofInt_eq_self (by decide) hfits.1 hfits.2]
  exact ⟨hlo, hhi⟩

/-- An answer stands on the response port of the addressed node. -/
theorem rsps_get_answer {s : State} {k : NodeId} (hk : s.sel = k) (r : Option Word) :
    (s.answer r).rsps.get k = r := by simp [hk]

/-- `WG.OUT` answers an output or a free value, of the oscillator's width either way (`40_waveform.md` R109, R116). -/
theorem wgOutAt_next {c : Config} {s t : State} (h : wgOutAt c s = .next t) :
    ∃ v : BitVec c.waveBits, t.rsps.wg = some (resultWord v.toNat) := by
  obtain ⟨ha, h⟩ := requireReady_next h
  have hk := s.hasUnit_wg_iff.mp ha.1
  rcases answerWave_cases (wgOutput c s.wg) s with ⟨v, -, he⟩ | ⟨-, he⟩
  · obtain rfl := Host.Outcome.next.inj (he.symm.trans h)
    exact ⟨v, rsps_get_answer hk _⟩
  · obtain rfl := Host.Outcome.next.inj (he.symm.trans h)
    exact ⟨_, rsps_get_answer (s := s.useDraw) hk _⟩

theorem execEgOut_next {s t : State} (h : execEgOut s = .next t) :
    t.rsps.eg = some (resultWord s.eg.envelopeCounter.toNat) := by
  obtain ⟨ha, h⟩ := requireReady_next h
  obtain rfl := (doneWith_eq_next _ _ _).mp h
  exact rsps_get_answer (s.hasUnit_eg_iff.mp ha.1) _

theorem flOutAt_next {c : Config} {s t : State} (h : flOutAt c s = .next t) :
    t.rsps.fl = some (resultWord (flOutput c s.fl)) := by
  obtain ⟨ha, h⟩ := requireReady_next h
  obtain rfl := (doneWith_eq_next _ _ _).mp h
  exact rsps_get_answer (s.hasUnit_fl_iff.mp ha.1) _

theorem cbTickAt_next {c : Config} {s t : State} (h : cbTickAt c s = .next t) :
    t.rsps.get t.sel = some (resultWord (tickWhole c s.cb)) := by
  obtain ⟨-, h⟩ := requireReady_next h
  obtain rfl := (doneWith_eq_next _ _ _).mp h
  exact rsps_get_answer rfl _

/-- A command that ends without a result leaves none on the port of its node (`30_encoding.md` R88). -/
theorem rsps_of_done {s t : State} (h : done s = .next t) : t.rsps.get t.sel = none := by
  obtain rfl := (done_eq_next _ _).mp h
  exact rsps_get_answer rfl _

theorem execAt_next_no_result {c : Config} {i : Instr} {s t : State}
    (hi : i ∉ [Instr.wgOut, .egOut, .flOut, .cbTick]) (h : execAt c i s = .next t) : t.rsps.get t.sel = none := by
  cases i <;> simp only [execAt] at h
  case wgOut | egOut | flOut | cbTick => simp at hi
  case cbConstruct sr =>
    obtain ⟨-, h⟩ := requirePresent_next h
    split at h <;> exact rsps_of_done h
  case wgConstruct | egConstruct | flConstruct =>
    obtain ⟨-, h⟩ := requirePresent_next h
    exact rsps_of_done h
  case flWrvvol k val =>
    unfold flWrvvolAt at h
    split at h
    · obtain ⟨-, h⟩ := requireReady_next h
      exact rsps_of_done h
    · cases h
  case flClock n =>
    obtain ⟨-, h⟩ := requireReady_next h
    obtain ⟨f, -, rfl⟩ := finishFilter_next h
    exact rsps_get_answer rfl _
  all_goals
    obtain ⟨-, h⟩ := requireReady_next h
    exact rsps_of_done h

theorem flOutput_bounds (c : Config) (f : FilterUnit) :
    -2 ^ (c.satBits - 1) ≤ flOutput c f ∧ flOutput c f ≤ 2 ^ (c.satBits - 1) - 1 := sat_bounds _

/-- Settles O52: the oscillator's output has 12 bits, the level has 8, the filter's output saturates to signed 16, and
every command but these and `CB.TICK` ends without a result. -/
theorem resultsStayInRange : Obligations.ResultsStayInRange := by
  intro i s t h
  refine ⟨?_, ?_, ?_, ?_, fun hi => ?_⟩
  · rintro rfl
    obtain ⟨v, hv⟩ := wgOutAt_next h
    have hlt : v.toNat < 2 ^ 12 := v.isLt
    exact ⟨_, hv, toInt_resultWord_bounds (by omega) (by omega) (by decide)⟩
  · rintro rfl
    have hlt := s.eg.envelopeCounter.isLt
    exact ⟨_, execEgOut_next h, toInt_resultWord_bounds (by omega) (by omega) (by decide)⟩
  · rintro rfl
    obtain ⟨hlo, hhi⟩ := flOutput_bounds nodeConfig s.fl
    exact ⟨_, flOutAt_next h, toInt_resultWord_bounds hlo hhi (by decide)⟩
  · rintro rfl
    exact Option.isSome_of_eq_some (cbTickAt_next h)
  · rw [← execAt_nodeConfig] at h
    exact execAt_next_no_result hi h

end Sys2Proof.Machine
end

section
/-! PROOFS. The statements of `40_waveform.md`: what each command of WG writes, the step of the noise register, and
the output of every selection. -/

namespace Sys2Proof.Machine

/-! ## Commands that write WG -/

/-- A command that WG accepts, has one write of WG and no result. -/
theorem requireReady_setWg {s : State} (h : s.Accepts .wg) (w : WaveformGenerator) :
    requireReady .wg s (done (s.setWg w)) = .next { s with wg := w, ports := none, rsps := s.rsps.set .wg none } := by
  rw [requireReady_of_accepts _ h, ← s.hasUnit_wg_iff.mp h.1]
  rfl

/-- Settles O16: on the node that contains WG, `CONSTRUCT` passes its gate and replaces the whole unit. -/
theorem waveConstructInitializes : Obligations.WaveConstructInitializes := by
  intro s hs
  calc exec .wgConstruct s
    _ = .next ((s.setWg (wgConstructed nodeConfig)).answer none) :=
      requirePresent_of_hasUnit _ (s.hasUnit_wg_iff.mpr hs)
    _ = _ := by rw [State.answer, State.setWg_sel, hs]; rfl

/-- Settles O17: the write of the reset is `wgWithReset`. -/
theorem waveResetKeepsTargets : Obligations.WaveResetKeepsTargets :=
  fun s h => requireReady_setWg h (wgWithReset nodeConfig s.wg)

/-- A word reads the row of its top byte (`30_encoding.md` R91). -/
theorem decode_of_opcode {w : Word} {op : BitVec 8} (h : w.extractLsb' 24 8 = op) :
    decode w = decodeOp op.toNat (immOf w) := by
  rw [decode, opcodeOf, h]

/-- Settles O20: each write is one of WG, whose operand the default frequency register holds as it is; each row cuts its
operand out of the operand field. -/
theorem waveWritesStoreTheirOperand : Obligations.WaveWritesStoreTheirOperand := by
  refine ⟨fun s h => ⟨fun f => ?_, fun _ => requireReady_setWg h _, fun _ => requireReady_setWg h _,
      fun _ => requireReady_setWg h _, fun c v => ⟨requireReady_setWg h _, requireReady_setWg h _⟩⟩,
    fun w => ⟨fun hop => decode_of_opcode hop, fun hop => decode_of_opcode hop, fun hop => ?_, fun hop => ?_⟩⟩
  · rw [← clampToBits_self f]
    exact requireReady_setWg h _
  · rw [← immOf_extractLsb' w (by decide)]
    exact decode_of_opcode hop
  · rw [← immOf_extractLsb' w (by decide)]
    exact decode_of_opcode hop

/-! ## Cycles -/

/-- Reducing the accumulator to its width leaves the bit that clocks the noise register. -/
theorem testBit_noiseClockBit_mod (c : Config) (x : Nat) :
    (x % 2 ^ c.accBits).testBit c.noiseClockBit = x.testBit c.noiseClockBit := by
  simp [Nat.testBit_mod_two_pow]

/-- A cycle from a reduced accumulator: one more addition before the reduction, and one step of the noise register where
the clock bit of the unreduced sums rises (`40_waveform.md` R103). -/
theorem wgCycle_mod (c : Config) (w : WaveformGenerator) (x sr : Nat) :
    wgCycle c { w with accumulator := x % 2 ^ c.accBits, shiftRegister := sr } =
      { w with
        accumulator := (x + w.frequency) % 2 ^ c.accBits
        shiftRegister :=
          (lfsrStep c)^[if x.testBit c.noiseClockBit = false ∧ (x + w.frequency).testBit c.noiseClockBit = true
            then 1 else 0] sr } := by
  simp only [wgCycle, Nat.mod_add_mod, testBit_noiseClockBit_mod]
  split <;> rfl

/-- `n` cycles of WG, by induction on `n` (`40_waveform.md` R103). -/
theorem wgCycle_iterate (c : Config) {w : WaveformGenerator} (h : w.accumulator < 2 ^ c.accBits) (n : Nat) :
    (wgCycle c)^[n] w = { w with
      accumulator := (w.accumulator + w.frequency * n) % 2 ^ c.accBits
      shiftRegister := (lfsrStep c)^[noiseClocks c w.accumulator w.frequency n] w.shiftRegister } := by
  induction n with
  | zero => simp [noiseClocks, Nat.mod_eq_of_lt h]
  | succ n ih =>
    have hsum : w.accumulator + w.frequency * n + w.frequency = w.accumulator + w.frequency * (n + 1) := by ring
    rw [Function.iterate_succ_apply', ih, wgCycle_mod, ← Function.iterate_add_apply, hsum, noiseClocks,
      Nat.mul_comm n, Nat.mul_comm (n + 1), Nat.add_comm (noiseClocks ..)]

/-- Settles O18: `CLOCK n` writes what `n` cycles make of WG. -/
theorem waveClockRunsCycleByCycle : Obligations.WaveClockRunsCycleByCycle := by
  intro n s h after
  have hrun (c : Config) (hacc : s.wg.accumulator < 2 ^ c.accBits) : execAt c (.wgClock n) s =
      .next (after c ((s.wg.accumulator + s.wg.frequency * n.toNat) % 2 ^ c.accBits)) := by
    calc execAt c (.wgClock n) s
      _ = .next { s with wg := (wgCycle c)^[n.toNat] s.wg, ports := none, rsps := s.rsps.set .wg none } :=
        requireReady_setWg h _
      _ = _ := by rw [wgCycle_iterate c hacc]
  exact ⟨hrun nodeConfig, hrun⟩

/-! ## The noise register -/

/-- Each bit of the step: the shifted register within its width, and the fed-back bit at the bottom. -/
theorem testBit_lfsrStep_eq (c : Config) (sr j : Nat) : (lfsrStep c sr).testBit j =
    (decide (j < c.lfsrBits) && (decide (1 ≤ j) && sr.testBit (j - 1)) ||
      decide (j = 0) && (sr.testBit c.lfsrTaps.1 ^^ sr.testBit c.lfsrTaps.2)) := by
  rw [lfsrStep, Nat.testBit_or, Nat.testBit_mod_two_pow, Nat.testBit_bool_toNat, ← Nat.testBit_mul_two_pow, pow_one]

/-- The step shifts left: above bit 0, each bit is the one below it (`40_waveform.md` R104). -/
theorem testBit_lfsrStep {c : Config} {j : Nat} (sr : Nat) (hpos : 0 < j) (hj : j < c.lfsrBits) :
    (lfsrStep c sr).testBit j = sr.testBit (j - 1) := by
  simp [testBit_lfsrStep_eq, hj, hpos.ne', Nat.succ_le_of_lt hpos]

/-- Bit 0 is fed back from the two taps (`40_waveform.md` R104). -/
theorem testBit_zero_lfsrStep (c : Config) (sr : Nat) :
    (lfsrStep c sr).testBit 0 = (sr.testBit c.lfsrTaps.1 ^^ sr.testBit c.lfsrTaps.2) := by
  rw [testBit_lfsrStep_eq]
  simp

/-- The default step loses no value: the shift keeps bits 0 to 21, and bit 22 is the fed-back bit XOR bit 17, which
the shift keeps. -/
theorem lfsrStep_injOn : Set.InjOn (lfsrStep nodeConfig) (Set.Iio (2 ^ 23)) := by
  intro x hx y hy hxy
  have hlow (j : Nat) (hj : j < 22) : x.testBit j = y.testBit j := by
    have hlt : j + 1 < nodeConfig.lfsrBits := Nat.succ_lt_succ hj
    rw [← Nat.add_sub_cancel (n := j) (m := 1), ← testBit_lfsrStep x j.succ_pos hlt, hxy,
      testBit_lfsrStep y j.succ_pos hlt]
  have hfeed : (x.testBit 22 ^^ x.testBit 17) = (y.testBit 22 ^^ y.testBit 17) :=
    calc _ = (lfsrStep nodeConfig x).testBit 0 := (testBit_zero_lfsrStep nodeConfig x).symm
      _ = (lfsrStep nodeConfig y).testBit 0 := by rw [hxy]
      _ = _ := testBit_zero_lfsrStep nodeConfig y
  rw [hlow 17 (by decide)] at hfeed
  have htop : x.testBit 22 = y.testBit 22 := Bool.xor_left_inj.mp hfeed
  apply Nat.eq_of_testBit_eq
  intro j
  rcases lt_trichotomy j 22 with hj | rfl | hj
  · exact hlow j hj
  · exact htop
  · have hge : 2 ^ 23 ≤ 2 ^ j := Nat.pow_le_pow_right (by decide) hj
    rw [Nat.testBit_lt_two_pow (hx.trans_le hge), Nat.testBit_lt_two_pow (hy.trans_le hge)]

/-- An injective map of a finite set into itself is a bijection. -/
theorem lfsrStep_bijOn : Set.BijOn (lfsrStep nodeConfig) (Set.Iio (2 ^ 23)) (Set.Iio (2 ^ 23)) :=
  ((Set.finite_Iio _).injOn_iff_bijOn_of_mapsTo fun sr _ => lfsrStep_lt nodeConfig sr).mp lfsrStep_injOn

/-- Settles O19: the bits of the step, its injectivity, and `nodeConfig_keepsNoise`: no value but 0 goes to 0. -/
theorem noiseStepIsABijection : Obligations.NoiseStepIsABijection :=
  ⟨fun sr => ⟨fun _ => testBit_lfsrStep (c := nodeConfig) sr, testBit_zero_lfsrStep nodeConfig sr⟩,
    lfsrStep_bijOn, by decide, nodeConfig_keepsNoise, by decide, by decide,
    fun c sr => ⟨lfsrStep_lt c sr, fun _ => testBit_lfsrStep sr, testBit_zero_lfsrStep c sr⟩⟩

/-! ## The output of each selection -/

/-- A selection of 9 or more has noise, which is bit 3, and another waveform. -/
theorem bits_of_mixed {m : BitVec 4} (h : 9 ≤ m.toNat) :
    m.getLsbD 3 = true ∧ (m.getLsbD 2 = true ∨ m.getLsbD 1 = true ∨ m.getLsbD 0 = true) := by
  revert m; decide

section
variable (c : Config) {w : WaveformGenerator}

/-! The rows of `40_waveform.md` R109. -/

theorem wgOutput_of_empty (h : w.waveformSelect = 0b0000#4) : wgOutput c w = .value c.midLevel := by
  simp [wgOutput, h]

theorem wgOutput_of_triangle (h : w.waveformSelect = 0b0001#4) :
    wgOutput c w = .value (triangle c w.accumulator) := by
  simp [wgOutput, h]

theorem wgOutput_of_sawtooth (h : w.waveformSelect = 0b0010#4) :
    wgOutput c w = .value (sawtooth c w.accumulator) := by
  simp [wgOutput, h]

theorem wgOutput_of_pulse (h : w.waveformSelect = 0b0100#4) :
    wgOutput c w = .value (pulse c w.accumulator w.pulseWidth) := by
  simp [wgOutput, h]

theorem wgOutput_of_noise (h : w.waveformSelect = 0b1000#4) :
    wgOutput c w = .value (noise c w.shiftRegister) := by
  simp [wgOutput, h]

theorem wgOutput_of_ts (h : w.waveformSelect = 0b0011#4) :
    wgOutput c w = .value (c.comb w.chipModel .ts (accTop c 12 w.accumulator)) := by
  simp [wgOutput, h]

theorem wgOutput_of_tp (h : w.waveformSelect = 0b0101#4) :
    wgOutput c w = .value (c.comb w.chipModel .tp (accTop c 12 w.accumulator)) := by
  simp [wgOutput, h]

theorem wgOutput_of_sp (h : w.waveformSelect = 0b0110#4) :
    wgOutput c w = .value (c.comb w.chipModel .sp (accTop c 12 w.accumulator)) := by
  simp [wgOutput, h]

theorem wgOutput_of_tsp (h : w.waveformSelect = 0b0111#4) :
    wgOutput c w = .value (c.comb w.chipModel .tsp (accTop c 12 w.accumulator)) := by
  simp [wgOutput, h]

theorem wgOutput_of_mixed (h : 9 ≤ w.waveformSelect.toNat) : wgOutput c w = .free := by
  obtain ⟨hnoise, hother⟩ := bits_of_mixed h
  unfold wgOutput
  split
  case h_10 => rfl
  all_goals simp_all

end

/-! ## The values of the waveforms -/

theorem sawtooth_toNat (c : Config) (acc : Nat) :
    (sawtooth c acc).toNat = acc / 2 ^ (c.accBits - c.waveBits) % 2 ^ c.waveBits := BitVec.toNat_ofNat ..

theorem pulse_toNat (c : Config) (acc pw : Nat) : (pulse c acc pw).toNat =
    if pw ≤ acc / 2 ^ (c.accBits - c.pwBits) % 2 ^ c.pwBits then 2 ^ c.waveBits - 1 else 0 := by
  rw [pulse, accTop, BitVec.toNat_ofNat]
  split <;> simp

theorem triangle_toNat (c : Config) (acc : Nat) : (triangle c acc).toNat =
    (if acc.testBit (c.accBits - 1) then 2 ^ c.accBits - 1 - acc else acc)
      / 2 ^ (c.accBits - 1 - c.waveBits) % 2 ^ c.waveBits := BitVec.toNat_ofNat ..

/-- Shifting a bit in doubles the byte, whose top bit falls out. -/
theorem shiftIn_toNat (v : BitVec 8) (b : Bool) : (shiftIn v b).toNat = (2 * v.toNat + b.toNat) % 2 ^ 8 := by
  revert v; cases b <;> decide

/-- The register bit that `NOISE_OUT_MAP` names at place `k`. -/
def mappedBit (c : Config) (sr : Nat) (k : Fin 8) : Nat := (sr.testBit c.noiseOutMap[k]).toNat

/-- The mapped bits as a number, most significant first (`40_waveform.md` R113). -/
theorem noiseByte_toNat (c : Config) (sr : Nat) : (noiseByte c sr).toNat =
    mappedBit c sr 0 * 2 ^ 7 + mappedBit c sr 1 * 2 ^ 6 + mappedBit c sr 2 * 2 ^ 5 + mappedBit c sr 3 * 2 ^ 4 +
      mappedBit c sr 4 * 2 ^ 3 + mappedBit c sr 5 * 2 ^ 2 + mappedBit c sr 6 * 2 + mappedBit c sr 7 := by
  have hlist : c.noiseOutMap.toList = List.ofFn fun k : Fin 8 => c.noiseOutMap[k] := by
    rw [← Vector.toList_ofFn]
    simp
  have hshift (v : BitVec 8) (k : Fin 8) :
      (shiftIn v (sr.testBit c.noiseOutMap[k])).toNat = (2 * v.toNat + mappedBit c sr k) % 2 ^ 8 := shiftIn_toNat _ _
  have hbit (k : Fin 8) : mappedBit c sr k ≤ 1 := Bool.toNat_le _
  have h0 := hbit 0; have h1 := hbit 1; have h2 := hbit 2; have h3 := hbit 3
  have h4 := hbit 4; have h5 := hbit 5; have h6 := hbit 6; have h7 := hbit 7
  rw [noiseByte, hlist]
  simp only [List.ofFn_succ, List.ofFn_zero, List.foldl_cons, List.foldl_nil, hshift, Fin.isValue,
    Fin.succ_zero_eq_one, Fin.succ_one_eq_two, Fin.reduceSucc, BitVec.ofNat_eq_ofNat, BitVec.toNat_ofNat]
  omega

/-- The mapped bits stand at the top of an output that has room for them. -/
theorem noise_toNat {c : Config} (h : 8 ≤ c.waveBits) (sr : Nat) : (noise c sr).toNat =
    (mappedBit c sr 0 * 2 ^ 7 + mappedBit c sr 1 * 2 ^ 6 + mappedBit c sr 2 * 2 ^ 5 + mappedBit c sr 3 * 2 ^ 4 +
      mappedBit c sr 4 * 2 ^ 3 + mappedBit c sr 5 * 2 ^ 2 + mappedBit c sr 6 * 2 + mappedBit c sr 7) *
      2 ^ (c.waveBits - 8) := by
  have hpow : 2 ^ c.waveBits = 2 ^ (c.waveBits - 8) * 2 ^ 8 := by rw [← pow_add, Nat.sub_add_cancel h]
  have hlt : (noiseByte c sr).toNat * 2 ^ (c.waveBits - 8) < 2 ^ c.waveBits := by
    rw [hpow, Nat.mul_comm]
    exact Nat.mul_lt_mul_of_pos_left (noiseByte c sr).isLt (Nat.two_pow_pos _)
  calc (noise c sr).toNat
    _ = (noiseByte c sr).toNat * 2 ^ c.waveBits / 2 ^ 8 % 2 ^ c.waveBits := BitVec.toNat_ofNat ..
    _ = (noiseByte c sr).toNat * 2 ^ (c.waveBits - 8) % 2 ^ c.waveBits := by
      conv_lhs => rw [hpow, ← Nat.mul_assoc, Nat.mul_div_cancel _ (by decide), ← hpow]
    _ = (noiseByte c sr).toNat * 2 ^ (c.waveBits - 8) := Nat.mod_eq_of_lt hlt
    _ = _ := by rw [noiseByte_toNat]

/-! ## `WG.OUT` -/

/-- A value of the oscillator's width fits the response port (`30_encoding.md` R88). -/
theorem resultWord_of_output {c : Config} (hc : c.Representable) (v : BitVec c.waveBits) :
    resultWord v.toNat = BitVec.ofNat 32 v.toNat :=
  resultWord_natCast (v.isLt.trans_le (Nat.pow_le_pow_right (by decide) (Nat.le_of_lt_succ hc.waveBits_lt)))

section
variable {c : Config} {s : State} (hc : c.Representable) (h : s.Accepts .wg)
include hc h

/-- Where the selection has a value, `WG.OUT` answers it and writes nothing else. -/
theorem execAt_wgOut_of_value {v : BitVec c.waveBits} {n : Nat} (hv : wgOutput c s.wg = .value v) (hn : v.toNat = n) :
    execAt c .wgOut s =
      .next { s with ports := none, rsps := s.rsps.set .wg (some (BitVec.ofNat 32 n)) } := by
  calc execAt c .wgOut s
    _ = answerWave (wgOutput c s.wg) s := requireReady_of_accepts _ h
    _ = .next (s.answer (some (resultWord v.toNat))) := by rw [hv]; rfl
    _ = _ := by rw [resultWord_of_output hc, hn, State.answer, s.hasUnit_wg_iff.mp h.1]

/-- Where it is free, `WG.OUT` answers the next free value and counts it (`40_waveform.md` R116; log entry 7). -/
theorem execAt_wgOut_of_free (hv : wgOutput c s.wg = .free) :
    execAt c .wgOut s = .next { s with
      ports := none, rsps := s.rsps.set .wg (some ((Config.draw c.waveBits s.draws).setWidth 32))
      draws := s.draws + 1 } := by
  calc execAt c .wgOut s
    _ = answerWave (wgOutput c s.wg) s := requireReady_of_accepts _ h
    _ = .next (s.useDraw.answer (some (resultWord (Config.draw c.waveBits s.draws).toNat))) := by rw [hv]; rfl
    _ = _ := by
      rw [resultWord_of_output hc, BitVec.ofNat_toNat, State.answer, State.useDraw_sel, s.hasUnit_wg_iff.mp h.1]
      rfl

end

/-- The same at the defaults. -/
theorem exec_wgOut_of_value {s : State} (h : s.Accepts .wg) {v : BitVec 12} {n : Nat}
    (hv : wgOutput nodeConfig s.wg = .value v) (hn : v.toNat = n) :
    exec .wgOut s = .next { s with ports := none, rsps := s.rsps.set .wg (some (BitVec.ofNat 32 n)) } :=
  execAt_wgOut_of_value nodeConfig_representable h hv hn

/-- The default map puts the eight mapped bits at bits 11 to 4 (`40_waveform.md` R113). -/
theorem noise_nodeConfig_toNat (sr : Nat) :
    let b (j : Nat) : Nat := (sr.testBit j).toNat
    (noise nodeConfig sr).toNat =
      b 22 * 2 ^ 11 + b 20 * 2 ^ 10 + b 16 * 2 ^ 9 + b 13 * 2 ^ 8 + b 11 * 2 ^ 7 + b 7 * 2 ^ 6 + b 4 * 2 ^ 5
        + b 2 * 2 ^ 4 := by
  intro b
  calc (noise nodeConfig sr).toNat
    _ = (b 22 * 2 ^ 7 + b 20 * 2 ^ 6 + b 16 * 2 ^ 5 + b 13 * 2 ^ 4 + b 11 * 2 ^ 3 + b 7 * 2 ^ 2 + b 4 * 2 + b 2) *
        2 ^ 4 := noise_toNat (c := nodeConfig) (by decide) sr
    _ = _ := by ring

/-- Settles O21: each of the five selections has a value, a slice or a comparison that fits the output. -/
theorem waveOutputOfSingleSelections : Obligations.WaveOutputOfSingleSelections := by
  intro s h acc b out
  refine ⟨fun hw => exec_wgOut_of_value h (wgOutput_of_empty _ hw) rfl,
    fun hw => exec_wgOut_of_value h (wgOutput_of_sawtooth _ hw) (sawtooth_toNat _ _),
    fun hw => exec_wgOut_of_value h (wgOutput_of_pulse _ hw) (pulse_toNat _ _ _),
    fun hw => exec_wgOut_of_value h (wgOutput_of_triangle _ hw) (triangle_toNat _ _),
    fun hw => exec_wgOut_of_value h (wgOutput_of_noise _ hw) (noise_nodeConfig_toNat _), fun c hc => ?_⟩
  exact ⟨fun hw => execAt_wgOut_of_value hc h (wgOutput_of_empty c hw) rfl,
    fun hw => execAt_wgOut_of_value hc h (wgOutput_of_sawtooth c hw) (sawtooth_toNat c _),
    fun hw => execAt_wgOut_of_value hc h (wgOutput_of_pulse c hw) (pulse_toNat c _ _),
    fun hw => execAt_wgOut_of_value hc h (wgOutput_of_triangle c hw) (triangle_toNat c _),
    fun hw => execAt_wgOut_of_value hc h (wgOutput_of_noise c hw) (noise_toNat hc.waveBits_ge _)⟩

/-- Settles O22: the value of a combined selection is an entry of its table, at the top 12 bits of the accumulator. -/
theorem waveOutputOfCombinedSelections : Obligations.WaveOutputOfCombinedSelections := by
  intro s h after entry entryAt
  have hread (combo : Combo)
      (hv : ∀ c, wgOutput c s.wg = .value (c.comb s.wg.chipModel combo (accTop c 12 s.wg.accumulator))) :
      exec .wgOut s = .next (entry combo) ∧
        ∀ c : Config, c.Representable → execAt c .wgOut s = .next (entryAt c combo) :=
    ⟨exec_wgOut_of_value h (hv nodeConfig) rfl, fun c hc => execAt_wgOut_of_value hc h (hv c) rfl⟩
  exact ⟨fun hw => hread .ts fun c => wgOutput_of_ts c hw, fun hw => hread .tp fun c => wgOutput_of_tp c hw,
    fun hw => hread .sp fun c => wgOutput_of_sp c hw, fun hw => hread .tsp fun c => wgOutput_of_tsp c hw⟩

/-- Settles O23: a mixed selection is free, at every configuration, the defaults among them. -/
theorem mixedNoiseDrawsAFreeValue : Obligations.MixedNoiseDrawsAFreeValue := by
  intro s h hw after
  have hfree (c : Config) (hc : c.Representable) : execAt c .wgOut s = .next (after c.waveBits) :=
    execAt_wgOut_of_free hc h (wgOutput_of_mixed c hw)
  exact ⟨hfree nodeConfig nodeConfig_representable, hfree⟩

end Sys2Proof.Machine
end

section
/-! PROOFS. The statements of `41_envelope.md`: what each command of EG writes, the rate event in every case, and what
cycles of EG make of it. -/

namespace Sys2Proof.Machine

/-! ## Commands that write EG -/

/-- A command that EG accepts, has one write of EG and no result. -/
theorem requireReady_setEg {s : State} (h : s.Accepts .eg) (e : EnvelopeGenerator) :
    requireReady .eg s (done (s.setEg e)) = .next { s with eg := e, ports := none, rsps := s.rsps.set .eg none } := by
  rw [requireReady_of_accepts _ h, ← s.hasUnit_eg_iff.mp h.1]
  rfl

/-- Settles O24: on the node that contains EG, `CONSTRUCT` passes its gate and replaces the whole unit. -/
theorem envelopeConstructInitializes : Obligations.EnvelopeConstructInitializes := by
  intro s hs
  calc exec .egConstruct s
    _ = .next ((s.setEg (egConstructed nodeConfig)).answer none) :=
      requirePresent_of_hasUnit _ (s.hasUnit_eg_iff.mpr hs)
    _ = _ := by rw [State.answer, State.setEg_sel, hs]; rfl

/-- Settles O25: the write of the reset is `egWithReset`. -/
theorem envelopeResetKeepsAdsr : Obligations.EnvelopeResetKeepsAdsr :=
  fun s h => requireReady_setEg h (egWithReset nodeConfig s.eg)

/-- Settles O27: a level has 8 bits, so that it stands on the port as it is. -/
theorem envelopeOutputIsTheLevel : Obligations.EnvelopeOutputIsTheLevel := by
  intro s h
  have hfits : s.eg.envelopeCounter.toNat < 2 ^ 31 := s.eg.envelopeCounter.isLt.trans (by decide)
  calc exec .egOut s
    _ = .next (s.answer (some (resultWord s.eg.envelopeCounter.toNat))) := requireReady_of_accepts _ h
    _ = _ := by rw [resultWord_natCast hfits, BitVec.ofNat_toNat, State.answer, s.hasUnit_eg_iff.mp h.1]

theorem periodOf_eq_rate (c : Config) (e : EnvelopeGenerator) (st : EnvState) :
    periodOf c e st = c.rate (match st with
      | .attack => e.attack
      | .decay => e.decay
      | .release => e.release
      | .idle => e.release) := by
  cases st <;> rfl

/-- Settles O28: the write is `egWithAdsr`, which takes the period of its state from the new registers. -/
theorem adsrWriteStoresAndArms : Obligations.AdsrWriteStoresAndArms := by
  intro a d su r s h
  calc exec (.egWradsr a d su r) s
    _ = .next { s with
        eg := egWithAdsr nodeConfig a d su r s.eg, ports := none, rsps := s.rsps.set .eg none } :=
      requireReady_setEg h _
    _ = _ := by rw [egWithAdsr, refreshPeriod, periodOf_eq_rate]; rfl

/-! ### The gate -/

theorem flagOf_zero : flagOf 0#1 = false := rfl

theorem flagOf_one : flagOf 1#1 = true := rfl

section
variable (c : Config) {e : EnvelopeGenerator}

/-- A rise (`41_envelope.md` R137). -/
theorem egWithGate_rise (h : e.gate = false) : egWithGate c true e = { e with
    state := .attack, holdZero := false, gate := true
    writeHold := e.writeHold || (c.delayBugOnGate && wouldReload e), rateCounterPeriod := c.rate e.attack } := by
  rw [egWithGate, if_pos (by simp [risingEdge, h])]
  rfl

/-- A fall. -/
theorem egWithGate_fall (h : e.gate = true) : egWithGate c false e = { e with
    state := .release, gate := false
    writeHold := e.writeHold || (c.delayBugOnGate && wouldReload e), rateCounterPeriod := c.rate e.release } := by
  rw [egWithGate, if_neg (by simp [risingEdge]), if_pos (by simp [fallingEdge, h])]
  rfl

/-- No edge. -/
theorem egWithGate_same {bit : Bool} (h : e.gate = bit) : egWithGate c bit e = e := by
  rw [egWithGate, if_neg (by simp [risingEdge, h]), if_neg (by simp [fallingEdge, h])]

end

/-- Settles O29: the write is `egWithGate`; the default parameter arms no hold. -/
theorem gateEdgesMoveTheState : Obligations.GateEdgesMoveTheState := by
  intro s h after
  have hwrite (c : Config) (bit : BitVec 1) :
      execAt c (.egWrgate bit) s = .next (after (egWithGate c (flagOf bit) s.eg)) := requireReady_setEg h _
  have hheld : (s.eg.writeHold || (nodeConfig.delayBugOnGate && wouldReload s.eg)) = s.eg.writeHold :=
    Bool.or_false _
  refine ⟨fun hg => ?_, fun hg => ?_, fun hg => ?_, fun hg => ?_, fun c => ⟨fun hg => ?_, fun hg => ?_⟩⟩
  · rw [← execAt_nodeConfig, hwrite, flagOf_one, egWithGate_rise _ hg, hheld]
  · rw [← execAt_nodeConfig, hwrite, flagOf_zero, egWithGate_fall _ hg, hheld]
  · rw [← execAt_nodeConfig, hwrite, flagOf_one, egWithGate_same _ hg]
  · rw [← execAt_nodeConfig, hwrite, flagOf_zero, egWithGate_same _ hg]
  · rw [hwrite, flagOf_one, egWithGate_rise _ hg]
    rfl
  · rw [hwrite, flagOf_zero, egWithGate_fall _ hg]
    rfl

/-! ## Cycles up to a rate event -/

section
variable (c : Config) {e : EnvelopeGenerator}

theorem egCycle_of_held (h : e.writeHold = true) : egCycle c e = { e with writeHold := false } := by
  simp [egCycle, h]

theorem egCycle_of_reload (h : e.writeHold = false) (hr : e.rateCounterPeriod ≤ e.rateCounter + 1) :
    egCycle c e = rateEvent c { e with rateCounter := 0 } := by
  simp [egCycle, h, hr]

theorem egCycle_of_count (h : e.writeHold = false) (hr : e.rateCounter + 1 < e.rateCounterPeriod) :
    egCycle c e = { e with rateCounter := e.rateCounter + 1 } := by
  simp [egCycle, h, hr]

/-- Before the counter reaches the period, cycles count and do nothing else. -/
theorem egCycle_iterate_count (h : e.writeHold = false) {k : Nat} (hk : e.rateCounter + k < e.rateCounterPeriod) :
    (egCycle c)^[k] e = { e with rateCounter := e.rateCounter + k } := by
  induction k with
  | zero => rfl
  | succ k ih =>
    rw [Function.iterate_succ_apply', ih (Nat.lt_of_succ_lt hk)]
    exact egCycle_of_count c h hk

/-- The rate event falls in the cycle in which the counter reaches the period. -/
theorem egCycle_iterate_period (h : e.writeHold = false) (hlt : e.rateCounter < e.rateCounterPeriod) :
    (egCycle c)^[e.rateCounterPeriod - e.rateCounter] e = rateEvent c { e with rateCounter := 0 } := by
  obtain ⟨k, hk⟩ : ∃ k, e.rateCounterPeriod = e.rateCounter + k + 1 := Nat.exists_eq_add_of_lt hlt
  have hcycles : e.rateCounterPeriod - e.rateCounter = k + 1 := by omega
  rw [hcycles, Function.iterate_succ_apply', egCycle_iterate_count c h (by omega)]
  exact egCycle_of_reload c h hk.le

end

/-- Settles O31: a cycle pays a hold, counts, or runs the event. -/
theorem rateEventsFallEveryPeriod : Obligations.RateEventsFallEveryPeriod :=
  fun c _ => ⟨egCycle_of_held c,
    fun h hlt => ⟨fun _ hk => egCycle_iterate_count c h hk, egCycle_iterate_period c h hlt⟩,
    fun h hle => egCycle_of_reload c h (Nat.le_succ_of_le hle)⟩

/-! ### A hold delays all that follows by one cycle -/

theorem clearHold_of_not_held {e : EnvelopeGenerator} (h : e.writeHold = false) : { e with writeHold := false } = e := by
  rw [← h]

/-- The first of `k + 1` cycles pays the hold. -/
theorem egCycle_iterate_succ_of_held (c : Config) {e : EnvelopeGenerator} (h : e.writeHold = true) (k : Nat) :
    (egCycle c)^[k + 1] e = (egCycle c)^[k] { e with writeHold := false } := by
  rw [Function.iterate_succ_apply, egCycle_of_held c h]

section
variable (c : Config) (a d su r : BitVec 4) {e : EnvelopeGenerator}

theorem egWithAdsr_writeHold : (egWithAdsr c a d su r e).writeHold = (e.writeHold || wouldReload e) := by
  simp [egWithAdsr, refreshPeriod, armHold]

/-- A write on a reload cycle arms the hold (`41_envelope.md` R138). -/
theorem egWithAdsr_held (h : e.rateCounterPeriod ≤ e.rateCounter + 1) :
    (egWithAdsr c a d su r e).writeHold = true := by
  simp [egWithAdsr_writeHold, wouldReload, h]

/-- A write on another cycle arms none. -/
theorem egWithAdsr_not_held (hw : e.writeHold = false) (h : e.rateCounter + 1 < e.rateCounterPeriod) :
    (egWithAdsr c a d su r e).writeHold = false := by
  simp [egWithAdsr_writeHold, wouldReload, hw, h]

/-- A second write replaces the registers and the period of the first, and keeps its hold. -/
theorem egWithAdsr_egWithAdsr (h : e.rateCounterPeriod ≤ e.rateCounter + 1) (a' d' su' r' : BitVec 4) :
    egWithAdsr c a' d' su' r' (egWithAdsr c a d su r e) =
      { egWithAdsr c a' d' su' r' e with writeHold := true } := by
  have hheld : (egWithAdsr c a' d' su' r' (egWithAdsr c a d su r e)).writeHold = true := by
    rw [egWithAdsr_writeHold, egWithAdsr_held c a d su r h, Bool.true_or]
  rw [← hheld]
  rfl

end

/-- Settles O30: an arming write leaves a hold, which the next cycle pays, and a second write leaves one hold too. -/
theorem delayBugCostsExactlyOneCycle : Obligations.DelayBugCostsExactlyOneCycle := by
  intro c e a d su r k hw written naive
  refine ⟨fun h => egCycle_iterate_succ_of_held c (egWithAdsr_held c a d su r h) k, fun h => ?_, fun h => ?_⟩
  · have hfree : written.writeHold = false := egWithAdsr_not_held c a d su r hw h
    exact (clearHold_of_not_held hfree).symm
  · intro a' d' su' r' again
    have htwice := egWithAdsr_egWithAdsr c a d su r h a' d' su' r'
    have hheld : again.writeHold = true := congrArg EnvelopeGenerator.writeHold htwice
    exact ⟨hheld, htwice, egCycle_iterate_succ_of_held c hheld k⟩

/-! ## The rate event in every case -/

/-- A level is below 254, or one of the two at the top. -/
theorem level_cases_top (x : BitVec 8) : x.toNat < 254 ∨ x = 254#8 ∨ x = 255#8 := by
  revert x; decide

/-- A level is 0, 1 or above. -/
theorem level_cases_bottom (x : BitVec 8) : x = 0#8 ∨ x = 1#8 ∨ 1 < x.toNat := by
  revert x; decide

/-- The level of Decay or Release stands still at the gate (`41_envelope.md` R142). -/
def EnvelopeGenerator.Stalls (c : Config) (e : EnvelopeGenerator) : Prop :=
  e.holdZero = true ∨ (e.state = .decay ∧ e.envelopeCounter = c.sustain e.sustain)

/-- The state in which an event of Decay or Release that found or reached level 0 ends (`41_envelope.md` R143). -/
def EnvelopeGenerator.stateAtZero (e : EnvelopeGenerator) : EnvState :=
  if e.state = .release then .idle else .decay

/-- An event of Attack below the top: one level up (`41_envelope.md` R141). -/
def EnvelopeGenerator.climbed (c : Config) (e : EnvelopeGenerator) : EnvelopeGenerator :=
  { e with
    exponentialCounter := 0, envelopeCounter := e.envelopeCounter + 1
    exponentialCounterPeriod := (c.expBp (e.envelopeCounter + 1)).getD e.exponentialCounterPeriod }

theorem EnvelopeGenerator.climbed_level (c : Config) (e : EnvelopeGenerator) :
    (e.climbed c).envelopeCounter = e.envelopeCounter + 1 := rfl

/-- An event of Decay or Release that steps: one level down (`41_envelope.md` R142). -/
def EnvelopeGenerator.fallen (c : Config) (e : EnvelopeGenerator) : EnvelopeGenerator :=
  { e with
    exponentialCounter := 0, envelopeCounter := e.envelopeCounter - 1
    exponentialCounterPeriod := (c.expBp (e.envelopeCounter - 1)).getD e.exponentialCounterPeriod }

theorem EnvelopeGenerator.fallen_level (c : Config) (e : EnvelopeGenerator) :
    (e.fallen c).envelopeCounter = e.envelopeCounter - 1 := rfl

section
variable (c : Config) {e : EnvelopeGenerator}

theorem rateEvent_of_idle (h : e.state = .idle) : rateEvent c e = e := by simp [rateEvent, h]

/-! ### Attack -/

theorem rateEvent_of_attack (h : e.state = .attack) : rateEvent c e = attackEvent c e := by simp [rateEvent, h]

theorem stepUp_of_lt (h : e.envelopeCounter.toNat < 255) :
    stepUp c { e with exponentialCounter := 0 } = e.climbed c := by
  rw [stepUp, if_pos h, updateExpPeriod_eq]
  rfl

theorem rateEvent_of_attack_lt (hs : e.state = .attack) (h : e.envelopeCounter.toNat < 254) :
    rateEvent c e = e.climbed c := by
  have hne : (e.climbed c).envelopeCounter ≠ 255#8 := fun htop => by
    have hup := level_up_toNat (h.trans (by decide))
    rw [← EnvelopeGenerator.climbed_level c, htop, BitVec.toNat_ofNat] at hup
    omega
  rw [rateEvent_of_attack c hs, attackEvent, stepUp_of_lt c (h.trans (by decide)), enterDecayAtTop, if_neg hne]

theorem rateEvent_of_attack_254 (hs : e.state = .attack) (h : e.envelopeCounter = 254#8) : rateEvent c e = { e with
    exponentialCounter := 0, envelopeCounter := 255
    exponentialCounterPeriod := (c.expBp 255).getD e.exponentialCounterPeriod
    state := .decay, rateCounterPeriod := c.rate e.decay } := by
  have htop : (e.climbed c).envelopeCounter = 255#8 := by rw [EnvelopeGenerator.climbed_level, h]; rfl
  rw [rateEvent_of_attack c hs, attackEvent, stepUp_of_lt c (by rw [h]; decide), enterDecayAtTop, if_pos htop,
    EnvelopeGenerator.climbed, ← EnvelopeGenerator.climbed_level c, htop]
  rfl

theorem rateEvent_of_attack_255 (hs : e.state = .attack) (h : e.envelopeCounter = 255#8) : rateEvent c e = { e with
    exponentialCounter := 0, state := .decay, rateCounterPeriod := c.rate e.decay } := by
  have hstay : ¬ e.envelopeCounter.toNat < 255 := by rw [h]; decide
  rw [rateEvent_of_attack c hs, attackEvent, stepUp, if_neg hstay, enterDecayAtTop, if_pos h]

/-- At the top an event of Attack ends at 255 in Decay. -/
theorem rateEvent_of_attack_top (hs : e.state = .attack) (h : 254 ≤ e.envelopeCounter.toNat) :
    ∃ p, rateEvent c e = { e with
      exponentialCounter := 0, envelopeCounter := 255, exponentialCounterPeriod := p
      state := .decay, rateCounterPeriod := c.rate e.decay } := by
  rcases level_cases_top e.envelopeCounter with hlt | h | h
  · omega
  · exact ⟨_, rateEvent_of_attack_254 c hs h⟩
  · exact ⟨e.exponentialCounterPeriod, by simp [rateEvent_of_attack_255 c hs h, h]⟩

/-! ### Decay and Release -/

theorem expStep_of_stalls (h : e.Stalls c) : expStep c e = e := by
  rcases h with hheld | hsus
  · rw [expStep, if_pos hheld]
  · rw [expStep, if_pos hsus, ite_self]

/-- At level 0 no step is taken, held or not (log entry 11). -/
theorem expStep_of_zero (h0 : e.envelopeCounter = 0#8) : expStep c e = e := by
  rcases expStep_cases c e with he | ⟨-, -, hpos, -⟩
  · exact he
  · simp [h0] at hpos

variable (hs : e.state = .decay ∨ e.state = .release)
include hs

theorem rateEvent_of_falling : rateEvent c e = expEvent c e := by
  rcases hs with h | h <;> simp [rateEvent, h]

theorem rateEvent_of_below_gate (h : e.exponentialCounter + 1 < e.exponentialCounterPeriod) :
    rateEvent c e = { e with exponentialCounter := e.exponentialCounter + 1 } := by
  rw [rateEvent_of_falling c hs, expEvent, if_neg (Nat.not_le.mpr h)]

theorem zeroCheck_of_zero (h0 : e.envelopeCounter = 0#8) :
    zeroCheck e = { e with holdZero := true, state := e.stateAtZero } := by
  rcases hs with h | h <;> simp [zeroCheck, h0, EnvelopeGenerator.stateAtZero, h]

variable (hgate : e.exponentialCounterPeriod ≤ e.exponentialCounter + 1)
include hgate

theorem rateEvent_at_gate : rateEvent c e = zeroCheck (expStep c { e with exponentialCounter := 0 }) := by
  rw [rateEvent_of_falling c hs, expEvent, if_pos hgate]

theorem rateEvent_of_zero (h0 : e.envelopeCounter = 0#8) :
    rateEvent c e = { e with exponentialCounter := 0, holdZero := true, state := e.stateAtZero } := by
  rw [rateEvent_at_gate c hs hgate, expStep_of_zero c (e := { e with exponentialCounter := 0 }) h0]
  exact zeroCheck_of_zero hs h0

theorem rateEvent_of_stalls (hne : e.envelopeCounter ≠ 0#8) (hst : e.Stalls c) :
    rateEvent c e = { e with exponentialCounter := 0 } := by
  rw [rateEvent_at_gate c hs hgate, expStep_of_stalls c (e := { e with exponentialCounter := 0 }) hst, zeroCheck,
    if_neg hne]

theorem rateEvent_of_not_stalls (hne : e.envelopeCounter ≠ 0#8) (hst : ¬ e.Stalls c) :
    rateEvent c e = zeroCheck (e.fallen c) := by
  obtain ⟨hheld, hsus⟩ := not_or.mp hst
  have hpos : 0 < e.envelopeCounter.toNat := Nat.pos_of_ne_zero fun h0 => hne (BitVec.eq_of_toNat_eq h0)
  rw [rateEvent_at_gate c hs hgate, expStep, if_neg hheld, if_neg hsus, stepDown, if_pos hpos, updateExpPeriod_eq]
  rfl

theorem rateEvent_of_above_one (h1 : 1 < e.envelopeCounter.toNat) (hst : ¬ e.Stalls c) :
    rateEvent c e = e.fallen c := by
  have hne : (e.fallen c).envelopeCounter ≠ 0#8 := fun h0 => by
    have hdown := level_down_toNat (Nat.zero_lt_of_lt h1)
    rw [← EnvelopeGenerator.fallen_level c, h0, BitVec.toNat_ofNat] at hdown
    omega
  rw [rateEvent_of_not_stalls c hs hgate (fun h0 => by simp [h0] at h1) hst, zeroCheck, if_neg hne]

theorem rateEvent_of_one (h1 : e.envelopeCounter = 1#8) (hst : ¬ e.Stalls c) : rateEvent c e = { e with
    exponentialCounter := 0, envelopeCounter := 0
    exponentialCounterPeriod := (c.expBp 0).getD e.exponentialCounterPeriod
    holdZero := true, state := e.stateAtZero } := by
  have hzero : e.envelopeCounter - 1 = 0#8 := by rw [h1]; rfl
  have hfallen : (e.fallen c).state = .decay ∨ (e.fallen c).state = .release := hs
  rw [rateEvent_of_not_stalls c hs hgate (by rw [h1]; decide) hst, zeroCheck_of_zero hfallen hzero,
    EnvelopeGenerator.fallen, hzero]
  rfl

end

/-- What one rate event can do. -/
inductive RateEvent (c : Config) (e : EnvelopeGenerator) : EnvelopeGenerator → Prop where
  /-- Nothing, in Idle. -/
  | idle (hs : e.state = .idle) : RateEvent c e e
  /-- Attack goes on, one level up. -/
  | climb (hs : e.state = .attack) (hlt : e.envelopeCounter.toNat < 254) : RateEvent c e (e.climbed c)
  /-- Attack ends at 255. -/
  | top (hs : e.state = .attack) (p : Nat) : RateEvent c e { e with
      exponentialCounter := 0, envelopeCounter := 255, exponentialCounterPeriod := p
      state := .decay, rateCounterPeriod := c.rate e.decay }
  /-- Decay or Release counts below the gate, or stalls at it. -/
  | stay (hs : e.state = .decay ∨ e.state = .release) (n : Nat) : RateEvent c e { e with exponentialCounter := n }
  /-- Decay or Release at level 0. -/
  | zero (hs : e.state = .decay ∨ e.state = .release) (h0 : e.envelopeCounter = 0#8) : RateEvent c e { e with
      exponentialCounter := 0, holdZero := true, state := e.stateAtZero }
  /-- Decay or Release above level 1, one level down. -/
  | fall (hs : e.state = .decay ∨ e.state = .release) (h1 : 1 < e.envelopeCounter.toNat) (hst : ¬ e.Stalls c) :
      RateEvent c e (e.fallen c)
  /-- Decay or Release from level 1 to 0. -/
  | land (hs : e.state = .decay ∨ e.state = .release) (h1 : e.envelopeCounter = 1#8) (hst : ¬ e.Stalls c) (p : Nat) :
      RateEvent c e { e with
        exponentialCounter := 0, envelopeCounter := 0, exponentialCounterPeriod := p
        holdZero := true, state := e.stateAtZero }

theorem RateEvent.of_attack (c : Config) {e : EnvelopeGenerator} (hs : e.state = .attack) :
    RateEvent c e (rateEvent c e) := by
  rcases level_cases_top e.envelopeCounter with h | h | h
  · exact rateEvent_of_attack_lt c hs h ▸ .climb hs h
  all_goals
    obtain ⟨p, hp⟩ := rateEvent_of_attack_top c hs (by simp [h])
    exact hp ▸ .top hs p

theorem RateEvent.of_falling (c : Config) {e : EnvelopeGenerator} (hs : e.state = .decay ∨ e.state = .release) :
    RateEvent c e (rateEvent c e) := by
  rcases Nat.lt_or_ge (e.exponentialCounter + 1) e.exponentialCounterPeriod with hlt | hgate
  · exact rateEvent_of_below_gate c hs hlt ▸ .stay hs _
  by_cases hst : e.Stalls c
  · by_cases h0 : e.envelopeCounter = 0#8
    · exact rateEvent_of_zero c hs hgate h0 ▸ .zero hs h0
    · exact rateEvent_of_stalls c hs hgate h0 hst ▸ .stay hs _
  rcases level_cases_bottom e.envelopeCounter with h | h | h
  · exact rateEvent_of_zero c hs hgate h ▸ .zero hs h
  · exact rateEvent_of_one c hs hgate h hst ▸ .land hs h hst _
  · exact rateEvent_of_above_one c hs hgate h hst ▸ .fall hs h hst

/-- Every rate event is one of these. -/
theorem rateEvent_spec (c : Config) (e : EnvelopeGenerator) : RateEvent c e (rateEvent c e) := by
  cases hs : e.state with
  | idle => exact (rateEvent_of_idle c hs).symm ▸ .idle hs
  | attack => exact .of_attack c hs
  | decay => exact .of_falling c (.inl hs)
  | release => exact .of_falling c (.inr hs)

/-! ## What cycles keep -/

/-- What a rate event keeps and what does not read the rate counter or the hold, every cycle keeps. -/
theorem egCycle_iterate_induct {c : Config} {P : EnvelopeGenerator → Prop}
    (hcounters : ∀ e rc wh, P e → P { e with rateCounter := rc, writeHold := wh })
    (hevent : ∀ e t, RateEvent c e t → P e → P t) {e : EnvelopeGenerator} (h : P e) (n : Nat) :
    P ((egCycle c)^[n] e) := by
  refine Function.Iterate.rec P h (fun v hv => ?_) n
  rcases egCycle_cases c v with ⟨-, he⟩ | ⟨-, -, he⟩ | ⟨-, -, he⟩ <;> rw [he]
  · exact hcounters v v.rateCounter false hv
  · exact hevent _ _ (rateEvent_spec c _) (hcounters v 0 v.writeHold hv)
  · exact hcounters v (v.rateCounter + 1) v.writeHold hv

theorem egCycle_iterate_gate (c : Config) (n : Nat) (e : EnvelopeGenerator) : ((egCycle c)^[n] e).gate = e.gate :=
  egCycle_iterate_induct (P := fun v => v.gate = e.gate) (fun _ _ _ h => h) (fun _ _ ht h => by cases ht <;> exact h)
    rfl n

/-- Settles O26: the write is that of the cycles, which keep the life state, the gate and the ADSR registers. -/
theorem envelopeClockKeepsRegisters : Obligations.EnvelopeClockKeepsRegisters := by
  intro n s h
  have hadsr := egCycle_iterate_adsr nodeConfig n.toNat s.eg
  simp only [EnvelopeGenerator.adsr, Prod.mk.injEq] at hadsr
  exact ⟨_, requireReady_setEg h _, rfl, egCycle_iterate_life _ _ _, egCycle_iterate_gate _ _ _, hadsr⟩

/-! ### The level -/

theorem EnvelopeGenerator.stateAtZero_ne_attack (e : EnvelopeGenerator) : e.stateAtZero ≠ .attack := by
  unfold stateAtZero
  split <;> decide

theorem EnvelopeGenerator.stateAtZero_of_decay {e : EnvelopeGenerator} (h : e.state = .decay) :
    e.stateAtZero = .decay := by
  simp [stateAtZero, h]

theorem EnvState.ne_attack_of_falling {st : EnvState} (hs : st = .decay ∨ st = .release) : st ≠ .attack := by
  rcases hs with rfl | rfl <;> decide

theorem EnvelopeGenerator.fallen_level_le (c : Config) {e : EnvelopeGenerator} (h : 1 < e.envelopeCounter.toNat) :
    (e.fallen c).envelopeCounter.toNat ≤ e.envelopeCounter.toNat := by
  rw [fallen_level, level_down_toNat (Nat.zero_lt_of_lt h)]
  exact Nat.sub_le _ _

/-- No event enters Attack, and one that stays in it does not lower the level. -/
theorem RateEvent.attack {c : Config} {e t : EnvelopeGenerator} (h : RateEvent c e t) (ht : t.state = .attack) :
    e.state = .attack ∧ e.envelopeCounter.toNat ≤ t.envelopeCounter.toNat := by
  cases h with
  | idle => exact ⟨ht, le_rfl⟩
  | climb hs hlt =>
    refine ⟨hs, ?_⟩
    rw [EnvelopeGenerator.climbed_level, level_up_toNat (hlt.trans (by decide))]
    exact Nat.le_succ _
  | top => cases ht
  | stay hs | fall hs => exact absurd ht (EnvState.ne_attack_of_falling hs)
  | zero | land => exact absurd ht e.stateAtZero_ne_attack

/-- Outside Attack no event raises the level. -/
theorem RateEvent.level_le {c : Config} {e t : EnvelopeGenerator} (h : RateEvent c e t) (he : e.state ≠ .attack) :
    t.envelopeCounter.toNat ≤ e.envelopeCounter.toNat := by
  cases h with
  | climb hs | top hs => exact absurd hs he
  | idle | stay | zero => exact le_rfl
  | fall hs h1 => exact e.fallen_level_le c h1
  | land => exact Nat.zero_le _

theorem RateEvent.ne_attack {c : Config} {e t : EnvelopeGenerator} (h : RateEvent c e t) (he : e.state ≠ .attack) :
    t.state ≠ .attack := fun ht => he (h.attack ht).1

/-- Decay at its sustain level. -/
def EnvelopeGenerator.AtSustain (c : Config) (e : EnvelopeGenerator) : Prop :=
  e.state = .decay ∧ e.envelopeCounter = c.sustain e.sustain

theorem RateEvent.atSustain {c : Config} {e t : EnvelopeGenerator} (h : RateEvent c e t) (he : e.AtSustain c) :
    t.AtSustain c ∧ t.envelopeCounter = e.envelopeCounter := by
  obtain ⟨hd, hsus⟩ := he
  cases h with
  | idle hs | climb hs | top hs => simp [hd] at hs
  | stay => exact ⟨⟨hd, hsus⟩, rfl⟩
  | zero => exact ⟨⟨e.stateAtZero_of_decay hd, hsus⟩, rfl⟩
  | fall _ _ hst | land _ _ hst => exact absurd (.inr ⟨hd, hsus⟩) hst

/-- Level 0, held, outside Attack. -/
def EnvelopeGenerator.HeldAtZero (e : EnvelopeGenerator) : Prop :=
  e.envelopeCounter = 0#8 ∧ e.holdZero = true ∧ e.state ≠ .attack

theorem RateEvent.heldAtZero {c : Config} {e t : EnvelopeGenerator} (h : RateEvent c e t) (he : e.HeldAtZero) :
    t.HeldAtZero := by
  obtain ⟨h0, hz, hs⟩ := he
  cases h with
  | climb ha | top ha => exact absurd ha hs
  | idle | stay => exact ⟨h0, hz, hs⟩
  | zero => exact ⟨h0, rfl, e.stateAtZero_ne_attack⟩
  | fall _ _ hst | land _ _ hst => exact absurd (.inl hz) hst

/-- Settles O33: each clause is kept by every event, so by any number of cycles. -/
theorem envelopeIsMonotone : Obligations.EnvelopeIsMonotone := by
  intro c e n
  refine ⟨?_, fun hs => ?_, fun hs hsus => ?_, fun hs h0 hz => ?_⟩
  · exact egCycle_iterate_induct
      (P := fun v => v.state = .attack → e.envelopeCounter.toNat ≤ v.envelopeCounter.toNat) (fun _ _ _ h => h)
      (fun v t hvt h ht => (h (hvt.attack ht).1).trans (hvt.attack ht).2) (fun _ => le_rfl) n
  · exact (egCycle_iterate_induct
      (P := fun v => v.state ≠ .attack ∧ v.envelopeCounter.toNat ≤ e.envelopeCounter.toNat) (fun _ _ _ h => h)
      (fun v t hvt h => ⟨hvt.ne_attack h.1, (hvt.level_le h.1).trans h.2⟩)
      ⟨EnvState.ne_attack_of_falling hs, le_rfl⟩ n).2
  · obtain ⟨⟨hd, -⟩, hlevel⟩ := egCycle_iterate_induct
      (P := fun v => v.AtSustain c ∧ v.envelopeCounter = e.envelopeCounter) (fun _ _ _ h => h)
      (fun v t hvt h => ⟨(hvt.atSustain h.1).1, (hvt.atSustain h.1).2.trans h.2⟩) ⟨⟨hs, hsus⟩, rfl⟩ n
    exact ⟨hlevel, hd⟩
  · exact egCycle_iterate_induct (P := EnvelopeGenerator.HeldAtZero) (fun _ _ _ h => h)
      (fun _ _ hvt h => hvt.heldAtZero h) ⟨h0, hz, hs⟩ n

/-! ### Idle -/

theorem egCycle_of_idle (c : Config) {e : EnvelopeGenerator} (h : e.state = .idle) :
    ∃ count, egCycle c e = { e with rateCounter := count, writeHold := false } := by
  rcases egCycle_cases c e with ⟨-, he⟩ | ⟨hw, -, he⟩ | ⟨hw, -, he⟩ <;> rw [he]
  · exact ⟨e.rateCounter, rfl⟩
  · rw [rateEvent_of_idle c (e := { e with rateCounter := 0 }) h, ← hw]
    exact ⟨0, rfl⟩
  · rw [← hw]
    exact ⟨e.rateCounter + 1, rfl⟩

/-- Cycles in Idle write the rate counter alone, and the first clears a pending hold. -/
theorem egCycle_iterate_of_idle (c : Config) {e : EnvelopeGenerator} (h : e.state = .idle) (n : Nat) :
    ∃ count, (egCycle c)^[n] e =
      { e with rateCounter := count, writeHold := e.writeHold && decide (n = 0) } := by
  induction n with
  | zero => exact ⟨e.rateCounter, by simp⟩
  | succ n ih =>
    obtain ⟨count, hn⟩ := ih
    have hidle : ((egCycle c)^[n] e).state = .idle := hn ▸ h
    obtain ⟨count', hc⟩ := egCycle_of_idle c hidle
    exact ⟨count', by rw [Function.iterate_succ_apply', hc, hn]; simp⟩

/-- Idle is left by a gate rise alone (`41_envelope.md` R144). -/
theorem egAfter_leaves_idle (c : Config) {i : Instr} {e : EnvelopeGenerator} (hs : e.state = .idle)
    (hg : e.gate = false) (ht : (egAfter c i e).state ≠ .idle) : i = .egWrgate 1#1 := by
  cases i with
  | egConstruct | egReset => exact absurd rfl ht
  | egClock n =>
    obtain ⟨count, hn⟩ := egCycle_iterate_of_idle c hs n.toNat
    rw [egAfter, hn] at ht
    exact absurd hs ht
  | egWrgate bit =>
    rcases BitVec.eq_zero_or_eq_one bit with rfl | rfl
    · rw [egAfter, flagOf_zero, egWithGate_same c hg] at ht
      exact absurd hs ht
    · rfl
  | _ => exact absurd hs ht

theorem egWithGate_ne_idle (c : Config) (bit : Bool) {e : EnvelopeGenerator} (hs : e.state ≠ .idle) :
    (egWithGate c bit e).state ≠ .idle := by
  unfold egWithGate
  split
  · exact nofun
  · split
    · exact nofun
    · exact hs

/-- Idle is entered by a `CLOCK`, a `CONSTRUCT` or a `RESET`. -/
theorem egAfter_enters_idle (c : Config) {i : Instr} {e : EnvelopeGenerator} (hs : e.state ≠ .idle)
    (ht : (egAfter c i e).state = .idle) : i = .egConstruct ∨ i = .egReset ∨ ∃ n, i = .egClock n := by
  cases i with
  | egConstruct => exact .inl rfl
  | egReset => exact .inr (.inl rfl)
  | egClock n => exact .inr (.inr ⟨n, rfl⟩)
  | egWrgate bit => exact absurd ht (egWithGate_ne_idle c (flagOf bit) hs)
  | _ => exact absurd ht hs

/-- Settles O34: the rate event by its cases, cycles in Idle by induction, and what a command leaves in EG. -/
theorem exponentialEventIsGated : Obligations.ExponentialEventIsGated := by
  refine ⟨fun c e hs => ⟨rateEvent_of_below_gate c hs, fun hgate => ⟨rateEvent_of_zero c hs hgate,
      rateEvent_of_stalls c hs hgate, rateEvent_of_above_one c hs hgate, rateEvent_of_one c hs hgate⟩⟩,
    fun c e hs => ⟨rateEvent_of_idle c hs, egCycle_iterate_of_idle c hs⟩, fun c i s t h => ?_⟩
  rw [(execAt_next_units h).eg]
  exact ⟨egAfter_leaves_idle c, egAfter_enters_idle c⟩

/-! ## The climb -/

/-- An Attack in the middle of a period, with no hold pending. -/
structure EnvelopeGenerator.Climbing (c : Config) (e : EnvelopeGenerator) : Prop where
  state : e.state = .attack
  hold : e.writeHold = false
  period : e.rateCounterPeriod = c.rate e.attack
  counter : e.rateCounter < c.rate e.attack

/-- EG at the end of a period that began at counter 0, one level up. -/
def EnvelopeGenerator.climbedPeriod (c : Config) (e : EnvelopeGenerator) : EnvelopeGenerator :=
  EnvelopeGenerator.climbed c { e with rateCounter := 0 }

section
variable {c : Config} {e : EnvelopeGenerator} (h : e.Climbing c)
include h

/-- The periods that follow the first begin after its event. -/
theorem EnvelopeGenerator.Climbing.iterate_periods (k : Nat) :
    (egCycle c)^[(k + 1) * c.rate e.attack - e.rateCounter] e =
      (egCycle c)^[k * c.rate e.attack] (rateEvent c { e with rateCounter := 0 }) := by
  have hlt : e.rateCounter < e.rateCounterPeriod := h.period ▸ h.counter
  rw [Nat.succ_mul, Nat.add_sub_assoc h.counter.le, Function.iterate_add_apply, ← h.period,
    egCycle_iterate_period c h.hold hlt]

theorem EnvelopeGenerator.Climbing.iterate_periods_of_lt (hlt : e.envelopeCounter.toNat < 254) (k : Nat) :
    (egCycle c)^[(k + 1) * c.rate e.attack - e.rateCounter] e =
      (egCycle c)^[k * c.rate e.attack] (e.climbedPeriod c) := by
  rw [h.iterate_periods, rateEvent_of_attack_lt c (e := { e with rateCounter := 0 }) h.state hlt]
  rfl

theorem EnvelopeGenerator.Climbing.next_period : (e.climbedPeriod c).Climbing c :=
  ⟨h.state, h.hold, h.period, Nat.zero_lt_of_lt h.counter⟩

end

theorem EnvelopeGenerator.climbedPeriod_level (c : Config) {e : EnvelopeGenerator}
    (h : e.envelopeCounter.toNat < 254) :
    (e.climbedPeriod c).envelopeCounter.toNat = e.envelopeCounter.toNat + 1 := level_up_toNat (h.trans (by decide))

section
variable {c : Config} {e t : EnvelopeGenerator} {k : Nat} (h : e.Climbing c)
  (ht : t = (egCycle c)^[(k + 1) * c.rate e.attack - e.rateCounter] e)
include h ht

/-- One level a period, by induction on the periods after the first. -/
theorem EnvelopeGenerator.Climbing.level_after (hk : e.envelopeCounter.toNat + (k + 1) < 255) :
    t.state = .attack ∧ t.envelopeCounter.toNat = e.envelopeCounter.toNat + (k + 1) ∧ t.rateCounter = 0 := by
  induction k generalizing e with
  | zero =>
    rw [h.iterate_periods_of_lt (by omega), Nat.zero_mul] at ht
    subst ht
    exact ⟨h.state, climbedPeriod_level c (by omega), rfl⟩
  | succ k ih =>
    have hup := climbedPeriod_level c (e := e) (by omega)
    rw [h.iterate_periods_of_lt (by omega)] at ht
    obtain ⟨hs, hlevel, hcount⟩ := ih h.next_period ht (by omega)
    exact ⟨hs, by omega, hcount⟩

/-- Decay at 255, by induction on the periods before the one that reaches it. -/
theorem EnvelopeGenerator.Climbing.top_after (hk : 254 - e.envelopeCounter.toNat = k) :
    t.state = .decay ∧ t.envelopeCounter = 255 ∧ t.rateCounter = 0 ∧ t.rateCounterPeriod = c.rate e.decay := by
  induction k generalizing e with
  | zero =>
    have hlevel : 254 ≤ e.envelopeCounter.toNat := Nat.le_of_sub_eq_zero hk
    obtain ⟨p, htop⟩ := rateEvent_of_attack_top c (e := { e with rateCounter := 0 }) h.state hlevel
    rw [h.iterate_periods, Nat.zero_mul, htop] at ht
    subst ht
    exact ⟨rfl, rfl, rfl, rfl⟩
  | succ k ih =>
    have hup := climbedPeriod_level c (e := e) (by omega)
    rw [h.iterate_periods_of_lt (by omega)] at ht
    exact ih (e := e.climbedPeriod c) h.next_period ht (by omega)

end

/-- Settles O32: an event of Attack by its level, and the climb by induction on the periods. -/
theorem attackClimbsToTheTop : Obligations.AttackClimbsToTheTop := by
  intro c e hs
  refine ⟨rateEvent_of_attack_lt c hs, rateEvent_of_attack_254 c hs, rateEvent_of_attack_255 c hs,
    fun hw hperiod hlt => ?_⟩
  have h : e.Climbing c := ⟨hs, hw, hperiod, hperiod ▸ hlt⟩
  refine ⟨fun k hpos hk => ?_, fun t ht => ?_⟩
  · obtain ⟨j, rfl⟩ := Nat.exists_eq_add_of_le' hpos
    exact h.level_after rfl hk
  · have hperiods : max 1 (255 - e.envelopeCounter.toNat) = 254 - e.envelopeCounter.toNat + 1 := by omega
    exact h.top_after (hperiods ▸ ht) rfl

end Sys2Proof.Machine
end

section
/-! PROOFS. The statements of `42_filter.md`: what each command of FL writes, the input stage, the sub-steps of a
clock, the resonance constant and the output. -/

namespace Sys2Proof.Machine

/-! ## The resonance constant -/

theorem qOf_nodeConfig (res : BitVec 4) (boost : BitVec 8) :
    qOf nodeConfig res boost = 707 / 1000 + (res.toNat : Rat) / 15 + 3293 / 1000 * (boost.toNat : Rat) / 255 := by
  simp [qOf, nodeConfig]

/-- `Q` runs from `Q_BASE` to 5 (`42_filter.md` R184). -/
theorem qOf_nodeConfig_bounds (res : BitVec 4) (boost : BitVec 8) :
    707 / 1000 ≤ qOf nodeConfig res boost ∧ qOf nodeConfig res boost ≤ 5 := by
  have hres : (res.toNat : Rat) ≤ 15 := by exact_mod_cast Nat.le_of_lt_succ res.isLt
  have hboost : (boost.toNat : Rat) ≤ 255 := by exact_mod_cast Nat.le_of_lt_succ boost.isLt
  have hres0 : (0 : Rat) ≤ res.toNat := Nat.cast_nonneg _
  have hboost0 : (0 : Rat) ≤ boost.toNat := Nat.cast_nonneg _
  rw [qOf_nodeConfig]
  constructor <;> linarith

section
variable (res : BitVec 4) (boost : BitVec 8)

/-- A natural number is at most `floor(1024 / Q)` just when its product with `Q` is at most 1024. -/
theorem le_q1024Of_iff (n : Nat) : n ≤ q1024Of nodeConfig res boost ↔ n * qOf nodeConfig res boost ≤ 1024 := by
  have hq : 0 < qOf nodeConfig res boost := lt_of_lt_of_le (by norm_num) (qOf_nodeConfig_bounds res boost).1
  calc n ≤ q1024Of nodeConfig res boost
    _ ↔ (n : Rat) ≤ 1024 / qOf nodeConfig res boost := Nat.le_floor_iff (div_nonneg (by norm_num) hq.le)
    _ ↔ _ := le_div_iff₀ hq

theorem q1024Of_eq_iff (n : Nat) : q1024Of nodeConfig res boost = n ↔
    n * qOf nodeConfig res boost ≤ 1024 ∧ 1024 < (n + 1 : Nat) * qOf nodeConfig res boost := by
  rw [← le_q1024Of_iff, ← not_le, ← le_q1024Of_iff]
  omega

end

/-- The constant of a constructed FL: `floor(1024 / 0.707)` (`10_state.md` R51). -/
theorem q1024Of_zero_zero : q1024Of nodeConfig 0 0 = 1448 := by
  rw [q1024Of_eq_iff, qOf_nodeConfig]
  norm_num

/-- Settles O40: `204 * 5` is at most 1024 and `1449 * 0.707` is above it; each point lies between its two products. -/
theorem resonanceConstantStaysInRange : Obligations.ResonanceConstantStaysInRange := by
  refine ⟨fun res boost => ?_, q1024Of_zero_zero, ?_⟩
  · obtain ⟨hlo, hhi⟩ := qOf_nodeConfig_bounds res boost
    have h204 : (204 : Nat) * qOf nodeConfig res boost ≤ 1024 := by
      norm_num
      linarith
    have h1449 : ¬ (1449 : Nat) * qOf nodeConfig res boost ≤ 1024 := by
      norm_num
      linarith
    rw [← le_q1024Of_iff] at h204 h1449
    exact ⟨hlo, h204, Nat.le_of_not_lt h1449⟩
  · simp only [q1024Of_eq_iff, qOf_nodeConfig, BitVec.ofNat_eq_ofNat, BitVec.toNat_ofNat]
    norm_num

/-! ## Commands that write FL -/

/-- A command that FL accepts, has one write of FL and no result. -/
theorem requireReady_setFl {s : State} (h : s.Accepts .fl) (f : FilterUnit) :
    requireReady .fl s (done (s.setFl f)) = .next { s with fl := f, ports := none, rsps := s.rsps.set .fl none } := by
  rw [requireReady_of_accepts _ h, ← s.hasUnit_fl_iff.mp h.1]
  rfl

/-- Settles O35: on the node that contains FL, `CONSTRUCT` passes its gate and replaces the whole unit. -/
theorem filterConstructInitializes : Obligations.FilterConstructInitializes := by
  intro s hs
  calc exec .flConstruct s
    _ = .next ((s.setFl (flConstructed nodeConfig)).answer none) :=
      requirePresent_of_hasUnit _ (s.hasUnit_fl_iff.mpr hs)
    _ = _ := by rw [State.answer, State.setFl_sel, hs, flConstructed, q1024Of_zero_zero]; rfl

/-- Settles O37: each write is one of FL, with its cache recomputed from what it stores. -/
theorem cacheWritesRecompute : Obligations.CacheWritesRecompute := fun _ h =>
  ⟨fun _ => requireReady_setFl h _, fun _ => requireReady_setFl h _, fun _ => requireReady_setFl h _,
    fun _ => requireReady_setFl h _, fun _ _ => requireReady_setFl h _⟩

/-- Settles O38: each write is one of FL. -/
theorem filterWritesStoreTheirOperand : Obligations.FilterWritesStoreTheirOperand := fun _ h =>
  ⟨fun _ => requireReady_setFl h _, fun _ => requireReady_setFl h _, fun _ => requireReady_setFl h _,
    fun _ => requireReady_setFl h _⟩

/-- Voice index 3 is refused at every configuration (`30_encoding.md` R90). -/
theorem flWrvvolAt_three (c : Config) (val : BitVec 16) (s : State) :
    flWrvvolAt c 3#2 val s = .refused .reservedVoice := by
  rw [flWrvvolAt, voiceIndex_three]

/-- A write of voice `k` stores the clamped operand there and keeps the other two (`42_filter.md` R181). -/
theorem flWrvvolAt_of_accepts (c : Config) {k : BitVec 2} (val : BitVec 16) {s : State} (hk : k ≠ 3#2)
    (h : s.Accepts .fl) : ∃ volumes : Vector Nat 3,
      flWrvvolAt c k val s = .next { s with
        fl := { s.fl with voiceVolume := volumes }, ports := none, rsps := s.rsps.set .fl none } ∧
      ∀ j : Fin 3, volumes[j] = if j.val = k.toNat then min val.toNat c.unityVolume else s.fl.voiceVolume[j] := by
  obtain ⟨hlt, hv⟩ := voiceIndex_of_ne hk
  refine ⟨s.fl.voiceVolume.set k.toNat (clampToMax c.unityVolume val), ?_, fun j => ?_⟩
  · rw [flWrvvolAt, hv]
    exact requireReady_setFl h _
  · simp only [Fin.getElem_fin, Vector.getElem_set, clampToMax, eq_comm (a := k.toNat)]

/-- Settles O39: a voice index is 3, which is refused, or a voice, whose scalar is written. -/
theorem voiceVolumeWritesOneVoice : Obligations.VoiceVolumeWritesOneVoice := by
  refine fun k val s => ⟨?_, fun hk h => ?_⟩
  · rintro rfl
    exact ⟨flWrvvolAt_three nodeConfig val s, fun c => flWrvvolAt_three c val s⟩
  · exact ⟨flWrvvolAt_of_accepts nodeConfig val hk h, fun c => flWrvvolAt_of_accepts c val hk h⟩

/-! ## The output -/

/-- The output fits the response port where its width does (`42_filter.md` R174). -/
theorem resultWord_flOutput {c : Config} (hbits : c.satBits ≤ 32) (f : FilterUnit) :
    resultWord (flOutput c f) = BitVec.ofInt 32 (flOutput c f) :=
  resultWord_of_fits (fitsSigned_mono hbits ((fitsSigned_iff _).mpr (flOutput_bounds c f)))

/-- `FL.OUT` is its output on the port, where that fits, and writes no state of FL. -/
theorem flOutAt_of_accepts {c : Config} {s : State} (hbits : c.satBits ≤ 32) (h : s.Accepts .fl) :
    flOutAt c s = .next { s with
      ports := none, rsps := s.rsps.set .fl (some (BitVec.ofInt 32 (flOutput c s.fl))) } := by
  calc flOutAt c s
    _ = .next (s.answer (some (resultWord (flOutput c s.fl)))) := requireReady_of_accepts _ h
    _ = _ := by rw [resultWord_flOutput hbits, State.answer, s.hasUnit_fl_iff.mp h.1]

theorem flOutput_nodeConfig (f : FilterUnit) : flOutput nodeConfig f =
    min (max ((f.vnf + modeSum f + nodeConfig.mixerDc f.chipModel) * (f.volume.toNat : Int)) (-32768)) 32767 := rfl

/-- Settles O45: the output is `flOutput`, which stands on the port as it is where its width fits. -/
theorem filterOutputMixesAndSaturates : Obligations.FilterOutputMixesAndSaturates := fun _ h =>
  ⟨flOutAt_of_accepts nodeConfig_representable.satBits_le h, fun _ _ hbits => flOutAt_of_accepts hbits h⟩

/-- No voltage, whichever paths the mode enables. -/
theorem modeSum_of_zero {f : FilterUnit} (hlp : f.vlp = 0) (hbp : f.vbp = 0) (hhp : f.vhp = 0) : modeSum f = 0 := by
  simp [modeSum, hlp, hbp, hhp]

/-- Settles O36: the write of the reset is `flWithReset`, which leaves the offset alone in the output. -/
theorem filterResetKeepsTargets : Obligations.FilterResetKeepsTargets := by
  intro s h
  have hacc := s.accepts_fl_iff.mp h
  refine ⟨_, requireReady_setFl h (flWithReset s.fl), rfl, ?_⟩
  have hout : flOutput nodeConfig (flWithReset s.fl) =
      min (max (nodeConfig.mixerDc s.fl.chipModel * (s.fl.volume.toNat : Int)) (-32768)) 32767 := by
    rw [flOutput_nodeConfig, modeSum_of_zero rfl rfl rfl, flWithReset]
    simp
  rw [← hout]
  exact flOutAt_of_accepts nodeConfig_representable.satBits_le ((State.accepts_fl_iff _).mpr hacc)

/-! ## The input stage -/

/-- A value goes to one of two paths. -/
theorem ite_eq_true_add_ite_eq_false (b : Bool) (x : Int) :
    (if b = true then x else 0) + (if b = false then x else 0) = x := by
  cases b <;> simp

/-- The two sums together are the sum of all the terms. -/
theorem routedSum_true_add_routedSum_false (c : Config) (f : FilterUnit) (p : SamplePorts) :
    routedSum c f p true + routedSum c f p false =
      voiceTerm c f 0 p.v1 + voiceTerm c f 1 p.v2 + voiceTerm c f 2 p.v3 + extTerm p.ext := by
  have h0 := ite_eq_true_add_ite_eq_false (f.routing.getLsbD 0) (voiceTerm c f 0 p.v1)
  have h1 := ite_eq_true_add_ite_eq_false (f.routing.getLsbD 1) (voiceTerm c f 1 p.v2)
  have h2 := ite_eq_true_add_ite_eq_false (f.routing.getLsbD 2) (voiceTerm c f 2 p.v3)
  have h3 := ite_eq_true_add_ite_eq_false (f.routing.getLsbD 3) (extTerm p.ext)
  unfold routedSum
  linarith

/-- Settles O41: the stage stores the two routed sums and counts the dither index. -/
theorem inputStageSplitsTheInputs : Obligations.InputStageSplitsTheInputs := fun c p f =>
  ⟨routedSum_true_add_routedSum_false c f p, rfl, rfl, rfl, rfl⟩

/-! ## Sub-steps -/

theorem sum_substepSizes (c : Config) (n : Nat) : (substepSizes c n).sum = n := by
  have hrem : (if n % c.filterChunk = 0 then [] else [n % c.filterChunk]).sum = n % c.filterChunk := by
    split <;> simp [*]
  rw [substepSizes, List.sum_append, List.sum_replicate, hrem, smul_eq_mul, Nat.div_add_mod']

/-- A sub-step is a full chunk or a remainder, which is shorter (`42_filter.md` R186). -/
theorem substepSizes_bounds {c : Config} {n dt : Nat} (hpos : 1 ≤ c.filterChunk) (h : dt ∈ substepSizes c n) :
    1 ≤ dt ∧ dt ≤ c.filterChunk := by
  rcases List.mem_append.mp h with hfull | hrem
  · obtain rfl := List.eq_of_mem_replicate hfull
    exact ⟨hpos, le_rfl⟩
  · split at hrem
    · cases hrem
    · next hne =>
      obtain rfl := List.mem_singleton.mp hrem
      exact ⟨Nat.pos_of_ne_zero hne, (Nat.mod_lt n hpos).le⟩

theorem length_substepSizes (c : Config) (n : Nat) :
    (substepSizes c n).length = n / c.filterChunk + (if n % c.filterChunk = 0 then 0 else 1) := by
  rw [substepSizes, List.length_append, List.length_replicate]
  split <;> rfl

/-- Settles O42: the sub-steps are the full chunks, then a remainder that is not 0. -/
theorem substepsCoverTheCycles : Obligations.SubstepsCoverTheCycles := by
  refine fun c n hc => ⟨sum_substepSizes c n, fun dt h => ?_, length_substepSizes c n,
    List.take_left' List.length_replicate⟩
  obtain ⟨hlo, hhi⟩ := substepSizes_bounds hc.filterChunk_pos h
  exact ⟨hlo, hhi, hhi.trans hc.filterChunk_le⟩

theorem substepSizes_zero (c : Config) : substepSizes c 0 = [] := by simp [substepSizes]

/-- Settles O43: the check of a sub-step is that its three new voltages fit their registers. -/
theorem substepFollowsTheEquations : Obligations.SubstepFollowsTheEquations := by
  intro c dt f w vbp vlp vhp lim inRange
  have hcheck : (fitsSigned c.vBits vbp && fitsSigned c.vBits vlp && fitsSigned c.vBits vhp) = true ↔
      inRange vbp ∧ inRange vlp ∧ inRange vhp := by
    rw [Bool.and_eq_true, Bool.and_eq_true, fitsSigned_iff, fitsSigned_iff, fitsSigned_iff, and_assoc]
  exact ⟨fun h => if_pos (hcheck.mpr h), fun h => if_neg (mt hcheck.mp h)⟩

/-! ## Clocks -/

section
variable {s : State} (h : s.Accepts .fl)
include h

/-- An accepted `FL.CLOCK` ends as its sub-steps do (`42_filter.md` R173). -/
theorem flClockAt_of_accepts (c : Config) (n : Imm) :
    flClockAt c n s = finishFilter (flClocked c s.portValues n.toNat s.fl) s := requireReady_of_accepts _ h

theorem flClockAt_of_ok {c : Config} {n : Imm} {g : FilterUnit}
    (hg : flClocked c s.portValues n.toNat s.fl = .ok g) :
    flClockAt c n s = .next { s with fl := g, ports := none, rsps := s.rsps.set .fl none } := by
  rw [← requireReady_setFl h g, requireReady_of_accepts _ h, flClockAt_of_accepts h, hg, finishFilter]

theorem flClockAt_of_error {c : Config} {n : Imm} {e : Fault}
    (he : flClocked c s.portValues n.toNat s.fl = .error e) : flClockAt c n s = .fault e := by
  rw [flClockAt_of_accepts h, he, finishFilter]

end

/-- No cycles are the input stage alone. -/
theorem flClocked_zero (c : Config) (p : SamplePorts) (f : FilterUnit) :
    flClocked c p 0 f = .ok (inputStage c p f) := by
  rw [flClocked, substepSizes_zero, flIntegrate]

/-- Settles O44: the command ends as its sub-steps do, and `flClocked_frame` says what they leave. -/
theorem filterClockRunsStageAndSubsteps : Obligations.FilterClockRunsStageAndSubsteps := by
  intro s h after runs
  have hruns (c : Config) : runs c (fun n => flClockAt c n s) := by
    refine ⟨fun n g hg => ⟨flClockAt_of_ok h hg, ?_⟩, fun n he => flClockAt_of_error h he,
      flClockAt_of_ok h (flClocked_zero c s.portValues s.fl)⟩
    rw [flClocked_frame hg]
    rfl
  exact ⟨hruns nodeConfig, hruns⟩

/-! ## Bypass -/

/-- No voltage and no filtered input: nothing for a sub-step to integrate (`42_filter.md` R190). -/
structure FilterUnit.AtRest (f : FilterUnit) : Prop where
  vhp : f.vhp = 0
  vbp : f.vbp = 0
  vlp : f.vlp = 0
  vi : f.vi = 0

/-- With every input bypassed nothing goes to the filtered path. -/
theorem routedSum_true_of_bypass (c : Config) {f : FilterUnit} (p : SamplePorts) (h : f.routing = 0) :
    routedSum c f p true = 0 := by
  simp [routedSum, h]

section
variable {c : Config} {f : FilterUnit} (h : f.AtRest)
include h

theorem FilterUnit.AtRest.flSubstep_eq (dt : Nat) : flSubstep c dt f = .ok f := by
  have hbp : subVbp f dt = f.vbp := by simp [subVbp, h.vhp]
  have hlp : subVlp f dt = f.vlp := by simp [subVlp, h.vbp]
  have hhp : subVhp f dt = f.vhp := by simp [subVhp, hbp, hlp, h.vhp, h.vbp, h.vlp, h.vi]
  rw [flSubstep, hbp, hlp, hhp, if_pos]
  simp [h.vhp, h.vbp, h.vlp]

theorem FilterUnit.AtRest.flIntegrate_eq (dts : List Nat) : flIntegrate c dts f = .ok f := by
  induction dts with
  | nil => rfl
  | cons dt dts ih =>
    rw [flIntegrate, h.flSubstep_eq]
    exact ih

end

/-- Settles O46: the input stage leaves FL at rest, where the sub-steps keep it, so that the output has the bypass sum
and the offset alone. -/
theorem bypassIsExact : Obligations.BypassIsExact := by
  intro n s h hrouting hvhp hvbp hvlp vnf
  have hrest : (inputStage nodeConfig s.portValues s.fl).AtRest :=
    ⟨hvhp, hvbp, hvlp, routedSum_true_of_bypass nodeConfig s.portValues hrouting⟩
  have hout : flOutput nodeConfig (inputStage nodeConfig s.portValues s.fl) =
      min (max ((vnf + nodeConfig.mixerDc s.fl.chipModel) * (s.fl.volume.toNat : Int)) (-32768)) 32767 := by
    rw [flOutput_nodeConfig, modeSum_of_zero hrest.vlp hrest.vbp hrest.vhp, add_zero]
    rfl
  have hacc := s.accepts_fl_iff.mp h
  refine ⟨_, flClockAt_of_ok (c := nodeConfig) h (hrest.flIntegrate_eq _), hrest.vhp, hrest.vbp, hrest.vlp, hrest.vi,
    rfl, ?_⟩
  rw [← hout]
  exact flOutAt_of_accepts nodeConfig_representable.satBits_le ((State.accepts_fl_iff _).mpr hacc)

end Sys2Proof.Machine
end

section
/-! PROOFS. The statements of `43_clockbridge.md`: the construction and its fault, the reset, and the ticks, which lose
no cycle. -/

namespace Sys2Proof.Machine

/-! ## Construction, fault and reset -/

/-- Every node contains a ClockBridge, so that `CB.CONSTRUCT` always passes its gate (`43_clockbridge.md` R211). -/
theorem exec_cbConstruct_of_ne {sr : Imm} (hsr : sr ≠ 0) (s : State) :
    exec (.cbConstruct sr) s = .next ((s.setCb (cbConstructed sr)).answer none) := by
  calc exec (.cbConstruct sr) s
    _ = if sr = 0#24 then raiseConfigFault sr s else done (s.setCb (cbConstructed sr)) :=
      requirePresent_of_hasUnit _ s.hasUnit_cb
    _ = done (s.setCb (cbConstructed sr)) := if_neg hsr

/-- What rate 0 leaves of `s`: its ClockBridge faulted and nothing else of it written (`60_exceptions.md` R251). -/
def State.rateFaulted (s : State) : State := (s.setCb { s.cb with life := .faulted 0 }).answer none

theorem State.cb_rateFaulted (s : State) : s.rateFaulted.cb = { s.cb with life := .faulted 0 } := s.cb_setCb _

/-- Another rate 0 changes nothing more. -/
theorem State.rateFaulted_rateFaulted (s : State) : s.rateFaulted.rateFaulted = s.rateFaulted := by
  rw [State.rateFaulted, s.cb_rateFaulted]
  simp [State.rateFaulted, State.setCb, State.answer]

theorem exec_cbConstruct_zero (s : State) : exec (.cbConstruct 0) s = .next s.rateFaulted :=
  requirePresent_of_hasUnit _ s.hasUnit_cb

/-- Settles O11: a positive rate replaces the whole ClockBridge of the addressed node. -/
theorem bridgeConstructSetsRateAndResidue : Obligations.BridgeConstructSetsRateAndResidue :=
  fun _ s hsr => exec_cbConstruct_of_ne hsr s

/-- Settles O13: the gate lets the one write through. -/
theorem bridgeResetClearsTheResidue : Obligations.BridgeResetClearsTheResidue :=
  fun _ h => requireReady_of_accepts _ h

/-- Settles O12: the gate refuses the faulted ClockBridge, and the gate of `CONSTRUCT` looks at no life state. -/
theorem zeroRateFaultsUntilReconstructed : Obligations.ZeroRateFaultsUntilReconstructed := by
  intro s
  have hfault : s.rateFaulted.life .cb = .faulted 0 := congrArg ClockBridge.life s.cb_rateFaulted
  have hagain : exec (.cbConstruct 0) s.rateFaulted = .next s.rateFaulted := by
    rw [exec_cbConstruct_zero, s.rateFaulted_rateFaulted]
  have hready (sr : Imm) : ((s.rateFaulted.setCb (cbConstructed sr)).answer none).cb.life = .ready := by
    rw [State.cb_answer, State.cb_setCb, cbConstructed]
  exact ⟨s.rateFaulted, exec_cbConstruct_zero s, rfl, requireReady_of_faulted _ (State.hasUnit_cb _) hfault,
    requireReady_of_faulted _ (State.hasUnit_cb _) hfault, hagain,
    fun sr hsr => ⟨_, exec_cbConstruct_of_ne hsr _, hready sr⟩⟩

/-! ## One tick -/

/-- An accepted `CB.TICK` writes the residue and answers the cycles of the sample (`43_clockbridge.md` R213). -/
theorem cbTickAt_of_accepts (c : Config) {s : State} (h : s.Accepts .cb) :
    cbTickAt c s = .next ((s.setCb (ticked c s.cb)).answer (some (resultWord (tickWhole c s.cb)))) :=
  requireReady_of_accepts _ h

section
variable (c : Config) {b : ClockBridge} (h : b.resNum < b.sampleRate)
include h

/-- A residue below the rate makes a sample at most one cycle longer. -/
theorem tickWhole_eq_or :
    tickWhole c b = c.clockRate / b.sampleRate ∨ tickWhole c b = c.clockRate / b.sampleRate + 1 := by
  have hlo : c.clockRate / b.sampleRate ≤ tickWhole c b := Nat.div_le_div_right (Nat.le_add_left _ _)
  have hhi : tickWhole c b ≤ c.clockRate / b.sampleRate + 1 := by
    calc (b.resNum + c.clockRate) / b.sampleRate
      _ ≤ (c.clockRate + b.sampleRate) / b.sampleRate := Nat.div_le_div_right (by omega)
      _ = c.clockRate / b.sampleRate + 1 := Nat.add_div_right _ (Nat.zero_lt_of_lt h)
  omega

/-- No sample is longer than a second: the residue plus one second's cycles is less than one second more of them. -/
theorem tickWhole_le_clockRate : tickWhole c b ≤ c.clockRate := by
  have hpos := Nat.zero_lt_of_lt h
  refine Nat.le_of_lt_succ ((Nat.div_lt_iff_lt_mul hpos).mpr ?_)
  calc b.resNum + c.clockRate
    _ < b.sampleRate + c.clockRate * b.sampleRate := add_lt_add_of_lt_of_le h (Nat.le_mul_of_pos_right _ hpos)
    _ = (c.clockRate + 1) * b.sampleRate := by ring

end

/-- Settles O14: the gate lets the division through, and a residue below the rate bounds the quotient. -/
theorem tickDividesExactly : Obligations.TickDividesExactly := by
  intro s h _ b whole
  refine ⟨⟨_, cbTickAt_of_accepts nodeConfig h, fun hfits => resultWord_natCast hfits⟩,
    fun hres => ⟨tickWhole_eq_or nodeConfig hres, ?_⟩⟩
  exact (tickWhole_le_clockRate nodeConfig hres).trans_lt (by decide)

/-! ## Many ticks -/

/-- A natural number that fits the port is read back from it (`30_encoding.md` R88). -/
theorem toInt_resultWord_natCast {n : Nat} (h : n < 2 ^ 31) : (resultWord n).toInt = n := by
  obtain ⟨hlo, hhi⟩ := toInt_resultWord_bounds (v := n) le_rfl le_rfl (by omega)
  exact le_antisymm hhi hlo

/-- One tick more, with its result added to the sum. -/
theorem dispense_succ {c : Config} {m : Nat} {s t u : State} {sum : Int} (ht : dispense c m s = .next (t, sum))
    (hu : cbTickAt c t = .next u) : dispense c (m + 1) s = .next (u, sum + resultOf (u.rsps.get u.sel)) := by
  simp only [dispense, ht, execAt, hu]

/-- What `m` ticks leave of `s` besides a residue and a result. -/
def State.afterTicks (s : State) (m residue : Nat) (r : Option Word) : State := { s with
  cbs := s.cbs.set s.sel { s.cbs.get s.sel with resNum := residue }
  ports := if m = 0 then s.ports else none, rsps := s.rsps.set s.sel r }

theorem State.cb_afterTicks (s : State) (m residue : Nat) (r : Option Word) :
    (s.afterTicks m residue r).cb = { s.cb with resNum := residue } := PerNode.get_set_self _ _ _

theorem State.rsps_afterTicks (s : State) (m residue : Nat) (r : Option Word) :
    (s.afterTicks m residue r).rsps.get (s.afterTicks m residue r).sel = r := PerNode.get_set_self _ _ _

/-- The state before the first tick. -/
theorem State.afterTicks_zero {s : State} (h : s.cb.resNum = 0) : s.afterTicks 0 0 (s.rsps.get s.sel) = s := by
  have hcb : { s.cb with resNum := 0 } = s.cb := by rw [← h]
  calc s.afterTicks 0 0 (s.rsps.get s.sel)
    _ = { s with cbs := s.cbs.set s.sel s.cb, rsps := s.rsps.set s.sel (s.rsps.get s.sel) } := by rw [← hcb]; rfl
    _ = s := by rw [State.cb, PerNode.set_get_self, PerNode.set_get_self]

/-- One tick more writes the same fields again. -/
theorem cbTickAt_afterTicks (c : Config) {s : State} (h : s.Accepts .cb) (m residue : Nat) (r : Option Word) :
    cbTickAt c (s.afterTicks m residue r) = .next (s.afterTicks (m + 1) ((residue + c.clockRate) % s.cb.sampleRate)
      (some (resultWord ((residue + c.clockRate) / s.cb.sampleRate : Nat)))) := by
  have hcb := s.cb_afterTicks m residue r
  have hacc : (s.afterTicks m residue r).Accepts .cb := ⟨rfl, (congrArg ClockBridge.life hcb).trans h.2⟩
  rw [cbTickAt_of_accepts c hacc, hcb]
  simp [State.setCb, State.answer, State.afterTicks, State.cb, ticked, tickWhole, tickSum]

/-- Carrying the remainder into the next division loses nothing. -/
theorem div_add_mod_add_div {n : Nat} (hn : 0 < n) (a b : Nat) : a / n + (a % n + b) / n = (a + b) / n := by
  calc a / n + (a % n + b) / n
    _ = (a % n + b + n * (a / n)) / n := by rw [Nat.add_mul_div_left _ _ hn, add_comm]
    _ = (a + b) / n := by rw [add_right_comm, Nat.mod_add_div]

/-- `m` ticks from residue 0, by induction on `m`: each residue is below the rate, so that each result fits the port
(`43_clockbridge.md` R214). -/
theorem dispense_eq {c : Config} (hc : c.clockRate < 2 ^ 31) {s : State} (h : s.Accepts .cb) (hres : s.cb.resNum = 0)
    (hpos : 0 < s.cb.sampleRate) (m : Nat) : ∃ r, dispense c m s = .next
      (s.afterTicks m (m * c.clockRate % s.cb.sampleRate) r, ((m * c.clockRate / s.cb.sampleRate : Nat) : Int)) := by
  induction m with
  | zero => exact ⟨s.rsps.get s.sel, by simp [dispense, s.afterTicks_zero hres]⟩
  | succ m ih =>
    obtain ⟨r, hm⟩ := ih
    have htick := cbTickAt_afterTicks c h m (m * c.clockRate % s.cb.sampleRate) r
    have hwhole : (m * c.clockRate % s.cb.sampleRate + c.clockRate) / s.cb.sampleRate ≤ c.clockRate :=
      tickWhole_le_clockRate c (b := { s.cb with resNum := m * c.clockRate % s.cb.sampleRate }) (Nat.mod_lt _ hpos)
    have hone := toInt_resultWord_natCast (hwhole.trans_lt hc)
    have hsucc := dispense_succ hm htick
    rw [State.rsps_afterTicks, resultOf, hone, ← Nat.cast_add, div_add_mod_add_div hpos, Nat.mod_add_mod,
      ← Nat.succ_mul] at hsucc
    exact ⟨_, hsucc⟩

/-- Settles O15: `dispense_eq`, at the default `CLOCK_RATE` and at every one that fits the port. -/
theorem ticksNeverDrift : Obligations.TicksNeverDrift := fun _ m h hres hpos =>
  ⟨dispense_eq (c := nodeConfig) (by decide) h hres hpos m, fun _ hc => dispense_eq hc h hres hpos m⟩

end Sys2Proof.Machine
end

section
/-! PROOFS. The statements of `44_node_adapter.md`: the construction of a node, blocks of samples, and the conversions
of the setters and of the outputs. -/

namespace Sys2Proof.Machine

/-! ## Numbers as fields -/

/-- A number that fits its field is read back from it. -/
theorem toNat_ofInt_of_fits {width : Nat} {x : Int} (h0 : 0 ≤ x) (h : x < 2 ^ width) :
    ((BitVec.ofInt width x).toNat : Int) = x := by
  have hmod : x % (2 ^ width : Nat) = x := Int.emod_eq_of_lt h0 (by exact_mod_cast h)
  rw [BitVec.toNat_ofInt, hmod, Int.toNat_of_nonneg h0]

theorem fieldOf_of_fits {width : Nat} {x : Int} (h0 : 0 ≤ x) (h : x < 2 ^ width) :
    fieldOf width x = BitVec.ofInt width x := if_pos ⟨h0, h⟩

/-- The field of a number that fits it holds that number. -/
theorem toNat_fieldOf {width : Nat} {x : Int} (h0 : 0 ≤ x) (h : x < 2 ^ width) :
    ((fieldOf width x).toNat : Int) = x := by rw [fieldOf_of_fits h0 h, toNat_ofInt_of_fits h0 h]

/-! ## The sequences of the host -/

@[simp] theorem andThen_next (s : State) (f : State → Result) : andThen (.next s) f = f s := rfl

/-- The generator of a node, once `Ready`, accepts a command on the node's port. -/
theorem accepts_generator {k : NodeId} {s : State} (p : Option SamplePorts) (h : s.life (generatorOf k) = .ready) :
    (s.present k p).Accepts (generatorOf k) := by
  cases k with
  | wg | eg | fl => exact ⟨rfl, h⟩

/-! ## Construction -/

theorem rateOperand_of_nonpos {rate : Int} (h : rate ≤ 0) : rateOperand rate = 0 := by simp [rateOperand, h]

theorem rateOperand_of_pos {rate : Int} (h : 0 < rate) : (rateOperand rate).toNat = (min rate 16777215).toNat := by
  have hfits := toNat_ofInt_of_fits (width := 24) (x := min rate 16777215) (by omega) (by omega)
  rw [rateOperand, if_neg (not_le.mpr h)]
  omega

theorem cbAfterConstruct_of_pos {sr : Imm} (b : ClockBridge) (h : 0 < sr.toNat) :
    cbAfterConstruct sr b = cbConstructed sr :=
  if_neg fun h0 => by simp [h0] at h

/-- `CB.CONSTRUCT` never stops, and leaves on its node what `cbAfterConstruct` says (`43_clockbridge.md` R211). -/
theorem perform_cbConstruct (c : Config) (k : NodeId) (sr : Imm) (s : State) :
    ∃ t, perform c k none (.cbConstruct sr) s = .next t ∧ t.cbs.get k = cbAfterConstruct sr (s.cbs.get k) := by
  obtain ⟨t, ht⟩ : ∃ t, perform c k none (.cbConstruct sr) s = .next t := by
    by_cases h : sr = 0
    · exact ⟨_, h ▸ exec_cbConstruct_zero (s.present k none)⟩
    · exact ⟨_, exec_cbConstruct_of_ne h (s.present k none)⟩
  refine ⟨t, ht, ?_⟩
  rw [(execAt_next_units ht).cbs]
  exact PerNode.get_set_self _ _ _

/-- `G.CONSTRUCT` never stops, makes the generator `Ready` and writes no ClockBridge. -/
theorem perform_constructOf (c : Config) (k : NodeId) (s : State) :
    ∃ t, perform c k none (constructOf k) s = .next t ∧ t.cbs = s.cbs ∧ t.life (generatorOf k) = .ready := by
  cases k with
  | wg | eg | fl => exact ⟨_, rfl, rfl, rfl⟩

/-! ## Events -/

theorem isGateWord_iff (w : Word) : isGateWord w = true ↔ ∃ b, decode w = .ok (.egWrgate b) := by
  unfold isGateWord
  split
  · next b h => simp [h]
  · next h => simpa using h

theorem blockWellFormed_iff {k : NodeId} {n : Nat} {events : List BlockEvent} : blockWellFormed k n events = true ↔
    ∀ e ∈ events, e.offset < n ∧ k = .eg ∧ ∃ b, decode e.word = .ok (.egWrgate b) := by
  simp [blockWellFormed, isGateWord_iff, and_assoc]

/-- Settles O58: each of the three defects contradicts a well-formed list. -/
theorem malformedBlocksAreRefused : Obligations.MalformedBlocksAreRefused := by
  intro c k n events inputs s e he hbad
  have hmal : ¬ blockWellFormed k n events = true := fun hw => by
    obtain ⟨hlt, hk, b, hb⟩ := blockWellFormed_iff.mp hw e he
    rcases hbad with h | h | h
    · omega
    · exact h hk
    · exact h b hb
  exact if_neg hmal

/-- The commands that the events of sample `i` stand for, in list order (`44_node_adapter.md` R225). -/
def eventsAt (k : NodeId) (i : Nat) (events : List BlockEvent) : List Command :=
  (events.filter fun e => e.offset = i).map fun e => ⟨k, e.word, none⟩

theorem issueEvents_eq_runCommands (c : Config) (k : NodeId) (i : Nat) (events : List BlockEvent) :
    issueEvents c k i events = runCommands c (eventsAt k i events) := by
  funext s
  induction events generalizing s with
  | nil => rfl
  | cons e es ih =>
    by_cases h : e.offset = i
    · simp [issueEvents, eventsAt, runCommands, h, funext ih]
    · simp [issueEvents, eventsAt, h, ih]

theorem egWithGate_life (c : Config) (bit : Bool) (e : EnvelopeGenerator) : (egWithGate c bit e).life = e.life := by
  unfold egWithGate
  split
  · rfl
  · split <;> rfl

/-- A gate write on a node whose EG is `Ready` writes neither a ClockBridge nor the life state. -/
theorem issueAt_gate (c : Config) {m : Command} {b : BitVec 1} {s : State} (hnode : m.node = .eg)
    (hb : decode m.word = .ok (.egWrgate b)) (hs : s.eg.life = .ready) :
    ∃ t, issueAt c m s = .next t ∧ t.cbs = s.cbs ∧ t.eg.life = .ready := by
  have hacc : (s.present m.node m.ports).Accepts .eg := by
    rw [hnode]
    exact accepts_generator (k := .eg) m.ports hs
  have hissue : issueAt c m s = egWrgateAt c b (s.present m.node m.ports) := by
    rw [issueAt, hb]
    rfl
  exact ⟨_, hissue.trans (requireReady_of_accepts _ hacc), rfl, (egWithGate_life c (flagOf b) s.eg).trans hs⟩

/-- So do any number of them. -/
theorem runCommands_gates (c : Config) {k : NodeId} {ms : List Command} {s : State}
    (hms : ∀ m ∈ ms, k = .eg ∧ m.node = k ∧ ∃ b, decode m.word = .ok (.egWrgate b))
    (hs : s.life (generatorOf k) = .ready) :
    ∃ t, runCommands c ms s = .next t ∧ t.cbs = s.cbs ∧ t.life (generatorOf k) = .ready := by
  induction ms generalizing s with
  | nil => exact ⟨s, rfl, rfl, hs⟩
  | cons m ms ih =>
    obtain ⟨⟨rfl, hnode, b, hb⟩, hrest⟩ := List.forall_mem_cons.mp hms
    obtain ⟨t, ht, hcbs, hlife⟩ := issueAt_gate c hnode hb hs
    obtain ⟨u, hu, hcbs', hlife'⟩ := ih hrest hlife
    exact ⟨u, by rw [runCommands, ht, andThen_next, hu], hcbs'.trans hcbs, hlife'⟩

/-- The events of a well-formed block run on a node whose generator is `Ready`: on a node without EG there are none. -/
theorem runCommands_eventsAt (c : Config) {k : NodeId} {n : Nat} {events : List BlockEvent} {s : State} (i : Nat)
    (hw : blockWellFormed k n events = true) (hs : s.life (generatorOf k) = .ready) :
    ∃ t, runCommands c (eventsAt k i events) s = .next t ∧ t.cbs = s.cbs ∧ t.life (generatorOf k) = .ready := by
  refine runCommands_gates c (fun m hm => ?_) hs
  obtain ⟨e, he, rfl⟩ := List.mem_map.mp hm
  obtain ⟨-, hk, hgate⟩ := blockWellFormed_iff.mp hw e (List.mem_of_mem_filter he)
  exact ⟨hk, rfl, hgate⟩

/-! ## One sample -/

/-- Once its events have run, a sample is its tick, its clock and its output (`44_node_adapter.md` R225). -/
theorem runSample_after_events (c : Config) (k : NodeId) (events : List BlockEvent) (inputs : Nat → SamplePorts)
    (i : Nat) {s s₁ : State} (h₁ : runCommands c (eventsAt k i events) s = .next s₁) :
    runSample c k events inputs i s = andThen (perform c k none .cbTick s₁) fun s₂ =>
      andThen (perform c k (some (inputs i)) (clockOf k (tickOperand k s₂)) s₂) (perform c k none (outOf k)) := by
  rw [runSample, issueEvents_eq_runCommands, h₁, andThen_next]

/-- Two samples with the same events and inputs are the same commands, wherever they stand in their blocks. -/
theorem runSample_congr {c : Config} {k : NodeId} {es fs : List BlockEvent} {inputs inputs' : Nat → SamplePorts}
    {i j : Nat} (he : eventsAt k i es = eventsAt k j fs) (hi : inputs i = inputs' j) :
    runSample c k es inputs i = runSample c k fs inputs' j := by
  funext s
  simp only [runSample, issueEvents_eq_runCommands, he, hi]

theorem runSample_of_faulted (c : Config) {k : NodeId} {n : Nat} {events : List BlockEvent}
    (inputs : Nat → SamplePorts) (i : Nat) {s : State} {info : Imm} (hw : blockWellFormed k n events = true)
    (hs : s.life (generatorOf k) = .ready) (hcb : (s.cbs.get k).life = .faulted info) :
    runSample c k events inputs i s = .refused .unitFaulted := by
  obtain ⟨t, ht, hcbs, -⟩ := runCommands_eventsAt c i hw hs
  have hlife : (t.present k none).life .cb = .faulted info := by rw [← hcb, ← hcbs]; rfl
  have htick : perform c k none .cbTick t = .refused .unitFaulted :=
    requireReady_of_faulted _ (State.hasUnit_cb _) hlife
  rw [runSample_after_events c k events inputs i ht, htick, andThen]

/-- Settles O56: `cbAfterConstruct` and then `Ready`; no event mends the ClockBridge before the first tick. -/
theorem nodeConstructReadiesOrFaults : Obligations.NodeConstructReadiesOrFaults := by
  intro c k rate s
  obtain ⟨u, hu, hcb⟩ := perform_cbConstruct c k (rateOperand rate) s
  obtain ⟨t, ht, hcbs, hlife⟩ := perform_constructOf c k u
  have hrun : performAll c k (nodeConstruct k rate) s = .next t := by
    simp [performAll, nodeConstruct, hu, ht]
  rw [← hcbs] at hcb
  refine ⟨t, hrun, fun hpos => ?_, fun hneg => ?_, ?_⟩
  · have hto := rateOperand_of_pos hpos
    rw [hcb, cbAfterConstruct_of_pos _ (by omega), cbConstructed, hto]
  · have hfault : (t.cbs.get k).life = .faulted 0 := by rw [hcb, rateOperand_of_nonpos hneg]; rfl
    refine ⟨hfault, fun n events inputs hw => ?_⟩
    rw [processBlock, if_pos hw, runSamples, runSample_of_faulted c inputs 0 hw hlife hfault]
  · cases k with
    | wg | eg | fl => exact hlife

/-! ## Many samples -/

/-- A run of one sample or more: its first sample, and then the others. -/
theorem runSamples_succ_next {c : Config} {k : NodeId} {es : List BlockEvent} {inputs : Nat → SamplePorts} {m i : Nat}
    {s u : State} {o : List (Option Word)} : runSamples c k es inputs (m + 1) i s = .next (u, o) ↔
      ∃ t o', runSample c k es inputs i s = .next t ∧ runSamples c k es inputs m (i + 1) t = .next (u, o') ∧
        o = t.rsps.get k :: o' := by
  rw [runSamples]
  cases hs : runSample c k es inputs i s with
  | fault | refused => simp
  | next t =>
    cases hm : runSamples c k es inputs m (i + 1) t with
    | fault | refused => simp [hm]
    | next r => simp [hm, Prod.ext_iff, eq_comm]

theorem runSamples_congr {c : Config} {k : NodeId} {es fs : List BlockEvent} {inputs inputs' : Nat → SamplePorts}
    {m i j : Nat} (h : ∀ l < m, runSample c k es inputs (i + l) = runSample c k fs inputs' (j + l)) :
    runSamples c k es inputs m i = runSamples c k fs inputs' m j := by
  induction m generalizing i j with
  | zero => rfl
  | succ m ih =>
    have h0 : runSample c k es inputs i = runSample c k fs inputs' j := h 0 m.succ_pos
    have hrest : runSamples c k es inputs m (i + 1) = runSamples c k fs inputs' m (j + 1) :=
      ih fun l hl => by simpa only [Nat.add_assoc, Nat.add_comm 1 l] using h (l + 1) (Nat.succ_lt_succ hl)
    funext s
    simp only [runSamples, h0, hrest]

/-- Runs follow each other, and so do their buffers, by induction on the samples of the first. -/
theorem runSamples_add {c : Config} {k : NodeId} {es : List BlockEvent} {inputs : Nat → SamplePorts} {a b i : Nat}
    {s t u : State} {o₁ o₂ : List (Option Word)} (h₁ : runSamples c k es inputs a i s = .next (t, o₁))
    (h₂ : runSamples c k es inputs b (i + a) t = .next (u, o₂)) :
    runSamples c k es inputs (a + b) i s = .next (u, o₁ ++ o₂) := by
  induction a generalizing i s o₁ with
  | zero =>
    cases h₁
    rwa [Nat.zero_add]
  | succ a ih =>
    obtain ⟨v, o, hv, ho, rfl⟩ := runSamples_succ_next.mp h₁
    rw [Nat.succ_add]
    exact runSamples_succ_next.mpr ⟨v, o ++ o₂, hv, ih ho (by rwa [Nat.add_assoc, Nat.add_comm 1 a]), rfl⟩

/-! ## Blocks -/

/-- An event of a later block of the same run, `a` samples on. -/
def BlockEvent.shift (a : Nat) (e : BlockEvent) : BlockEvent := { e with offset := a + e.offset }

/-- Before sample `a` the events shifted by `a` do nothing. -/
theorem eventsAt_append_shift_of_lt {k : NodeId} {a i : Nat} (es fs : List BlockEvent) (hi : i < a) :
    eventsAt k i (es ++ fs.map (BlockEvent.shift a)) = eventsAt k i es := by
  have hnone : (fs.map (BlockEvent.shift a)).filter (fun e => e.offset = i) = [] := by
    simp only [List.filter_eq_nil_iff, List.forall_mem_map, BlockEvent.shift, decide_eq_true_eq]
    intro e _
    omega
  simp [eventsAt, hnone]

/-- From sample `a` on they do what they do in their own block, and the others nothing. -/
theorem eventsAt_append_shift_add {k : NodeId} {a : Nat} {es : List BlockEvent} (fs : List BlockEvent)
    (hes : ∀ e ∈ es, e.offset < a) (i : Nat) :
    eventsAt k (a + i) (es ++ fs.map (BlockEvent.shift a)) = eventsAt k i fs := by
  have hnone : es.filter (fun e => e.offset = a + i) = [] := by
    simp only [List.filter_eq_nil_iff, decide_eq_true_eq]
    intro e he
    have := hes e he
    omega
  simp [eventsAt, hnone, List.filter_map, Function.comp_def, BlockEvent.shift]

theorem blockWellFormed_append_shift {k : NodeId} {a b : Nat} {es fs : List BlockEvent}
    (hes : blockWellFormed k a es = true) (hfs : blockWellFormed k b fs = true) :
    blockWellFormed k (a + b) (es ++ fs.map (BlockEvent.shift a)) = true := by
  rw [blockWellFormed_iff] at hes hfs ⊢
  intro e he
  rcases List.mem_append.mp he with he | he
  · obtain ⟨hlt, hgate⟩ := hes e he
    exact ⟨by omega, hgate⟩
  · obtain ⟨f, hf, rfl⟩ := List.mem_map.mp he
    obtain ⟨hlt, hgate⟩ := hfs f hf
    exact ⟨Nat.add_lt_add_left hlt a, hgate⟩

/-- A block that ran was well formed, and ran its samples from sample 0. -/
theorem processBlock_next {c : Config} {k : NodeId} {n : Nat} {events : List BlockEvent} {inputs : Nat → SamplePorts}
    {s : State} {r : State × List (Option Word)} : processBlock c k n events inputs s = .next r ↔
      blockWellFormed k n events = true ∧ runSamples c k events inputs n 0 s = .next r := by
  unfold processBlock
  split
  · next hw => simp [hw]
  · next hw => simp [hw]

theorem processBlock_append {c : Config} {k : NodeId} {a b : Nat} {es fs : List BlockEvent}
    {inputs : Nat → SamplePorts} {s t u : State} {o₁ o₂ : List (Option Word)}
    (h₁ : processBlock c k a es inputs s = .next (t, o₁))
    (h₂ : processBlock c k b fs (fun i => inputs (a + i)) t = .next (u, o₂)) :
    processBlock c k (a + b) (es ++ fs.map (BlockEvent.shift a)) inputs s = .next (u, o₁ ++ o₂) := by
  obtain ⟨hes, h₁⟩ := processBlock_next.mp h₁
  obtain ⟨hfs, h₂⟩ := processBlock_next.mp h₂
  have hlt : ∀ e ∈ es, e.offset < a := fun e he => (blockWellFormed_iff.mp hes e he).1
  have hfirst : runSamples c k (es ++ fs.map (BlockEvent.shift a)) inputs a 0 = runSamples c k es inputs a 0 :=
    runSamples_congr fun l hl =>
      runSample_congr (eventsAt_append_shift_of_lt es fs (by rwa [Nat.zero_add])) rfl
  have hsecond : runSamples c k (es ++ fs.map (BlockEvent.shift a)) inputs b (0 + a) =
      runSamples c k fs (fun i => inputs (a + i)) b 0 :=
    runSamples_congr fun l _ => by
      rw [Nat.zero_add, Nat.zero_add]
      exact runSample_congr (eventsAt_append_shift_add fs hlt l) rfl
  exact processBlock_next.mpr
    ⟨blockWellFormed_append_shift hes hfs, runSamples_add (hfirst ▸ h₁) (hsecond ▸ h₂)⟩

/-- A block of one sample answers the state after it and the result on the port. -/
theorem processBlock_one {c : Config} {k : NodeId} {events : List BlockEvent} {inputs : Nat → SamplePorts}
    {s t : State} (hw : blockWellFormed k 1 events = true) (h : runSample c k events inputs 0 s = .next t) :
    processBlock c k 1 events inputs s = .next (t, [t.rsps.get k]) :=
  processBlock_next.mpr ⟨hw, runSamples_succ_next.mpr ⟨t, [], h, rfl, rfl⟩⟩

/-- Every event of a block of one sample is one of that sample. -/
theorem eventsAt_zero {k : NodeId} {events : List BlockEvent} (hw : blockWellFormed k 1 events = true) :
    eventsAt k 0 events = events.map fun e => ⟨k, e.word, none⟩ := by
  have hall : events.filter (fun e => e.offset = 0) = events := List.filter_eq_self.mpr fun e he => by
    have hlt := (blockWellFormed_iff.mp hw e he).1
    exact decide_eq_true (Nat.lt_one_iff.mp hlt)
  rw [eventsAt, hall]

/-- A tick's result of at most 24 bits is the operand of the `CLOCK` after it (`43_clockbridge.md` R213). -/
theorem tickOperand_of_lt {k : NodeId} {s : State} {n : Word} (hn : s.rsps.get k = some n) (hlt : n.toNat < 2 ^ 24) :
    tickOperand k s = n.setWidth 24 := by
  have hint : n.toInt = n.toNat := BitVec.toInt_eq_toNat_of_lt (by omega)
  calc tickOperand k s
    _ = fieldOf 24 n.toNat := by rw [tickOperand, hn, ← hint]; rfl
    _ = BitVec.ofNat 24 n.toNat := by rw [fieldOf_of_fits (by omega) (by omega), BitVec.ofInt_natCast]
    _ = n.setWidth 24 := BitVec.ofNat_toNat 24 n

/-! ## Samples of a `Ready` WG or EG node -/

theorem perform_cbTick (c : Config) {k : NodeId} {s : State} (hcb : (s.cbs.get k).life = .ready) :
    ∃ t, perform c k none .cbTick s = .next t ∧ t.life (generatorOf k) = s.life (generatorOf k) := by
  refine ⟨_, cbTickAt_of_accepts c (s := s.present k none) ⟨State.hasUnit_cb _, hcb⟩, ?_⟩
  cases k with
  | wg | eg | fl => rfl

/-- FL alone can fault (`42_filter.md` R188). -/
theorem perform_clockOf (c : Config) {k : NodeId} {s : State} (p : Option SamplePorts) (n : Imm) (hk : k ≠ .fl)
    (hs : s.life (generatorOf k) = .ready) :
    ∃ t, perform c k p (clockOf k n) s = .next t ∧ t.life (generatorOf k) = .ready := by
  have hacc := accepts_generator p hs
  cases k with
  | wg => exact ⟨_, requireReady_of_accepts _ hacc, (wgCycle_iterate_life c n.toNat s.wg).trans hs⟩
  | eg => exact ⟨_, requireReady_of_accepts _ hacc, (egCycle_iterate_life c n.toNat s.eg).trans hs⟩
  | fl => exact absurd rfl hk

theorem perform_outOf (c : Config) {k : NodeId} {s : State} (hs : s.life (generatorOf k) = .ready) :
    ∃ t v, perform c k none (outOf k) s = .next t ∧ t.rsps.get k = some v := by
  have hacc := accepts_generator none hs
  cases k with
  | wg =>
    have hout : perform c .wg none .wgOut s = answerWave (wgOutput c s.wg) (s.present .wg none) :=
      requireReady_of_accepts _ hacc
    rcases answerWave_cases (wgOutput c s.wg) (s.present .wg none) with ⟨v, -, he⟩ | ⟨-, he⟩
    · exact ⟨_, _, hout.trans he, rsps_get_answer rfl _⟩
    · exact ⟨_, _, hout.trans he, rsps_get_answer rfl _⟩
  | eg | fl => exact ⟨_, _, requireReady_of_accepts _ hacc, rsps_get_answer rfl _⟩

/-- A sample of a node whose ClockBridge and WG or EG are `Ready` ends with a result. -/
theorem runSample_of_ready (c : Config) {k : NodeId} {n : Nat} {events : List BlockEvent}
    (inputs : Nat → SamplePorts) (i : Nat) {s : State} (hk : k ≠ .fl) (hw : blockWellFormed k n events = true)
    (hs : s.life (generatorOf k) = .ready) (hcb : (s.cbs.get k).life = .ready) :
    ∃ t v, runSample c k events inputs i s = .next t ∧ t.rsps.get k = some v := by
  obtain ⟨s₁, h₁, hcbs, hs₁⟩ := runCommands_eventsAt c i hw hs
  obtain ⟨s₂, h₂, hs₂⟩ := perform_cbTick c (hcbs ▸ hcb)
  obtain ⟨s₃, h₃, hs₃⟩ := perform_clockOf c (some (inputs i)) (tickOperand k s₂) hk (hs₂.trans hs₁)
  obtain ⟨s₄, v, h₄, hv⟩ := perform_outOf c hs₃
  refine ⟨s₄, v, ?_, hv⟩
  rw [runSample_after_events c k events inputs i h₁, h₂, andThen_next, h₃, andThen_next, h₄]

/-- Settles O57: blocks by their samples, a sample by its commands, each of which a `Ready` WG or EG node accepts. -/
theorem blocksConcatenate : Obligations.BlocksConcatenate := by
  refine ⟨fun c k a b es fs inputs s t u o₁ o₂ => processBlock_append, ?_, ?_, fun _ _ _ _ => rfl⟩
  · intro c k es inputs s s₁ s₂ s₃ s₄ n clock out hw h₁ h₂ hn hlt h₃ h₄
    have hclock : clock = clockOf k (n.setWidth 24) := by cases k <;> rfl
    have hout : out = outOf k := by cases k <;> rfl
    have h₂ : perform c k none .cbTick s₁ = .next s₂ := h₂
    have h₃ : perform c k (some (inputs 0)) (clockOf k (tickOperand k s₂)) s₂ = .next s₃ := by
      rwa [tickOperand_of_lt hn hlt, ← hclock]
    have h₄ : perform c k none (outOf k) s₃ = .next s₄ := by rwa [← hout]
    rw [← eventsAt_zero hw] at h₁
    refine processBlock_one hw ?_
    rw [runSample_after_events c k es inputs 0 h₁, h₂, andThen_next, h₃, andThen_next, h₄]
  · intro k es inputs s hgen hcb _ hw
    obtain ⟨hk, hs⟩ : k ≠ .fl ∧ s.life (generatorOf k) = .ready := by
      rcases hgen with ⟨rfl, hs⟩ | ⟨rfl, hs⟩
      · exact ⟨by decide, hs⟩
      · exact ⟨by decide, hs⟩
    obtain ⟨t, v, ht, hv⟩ := runSample_of_ready nodeConfig inputs 0 hk hw hs hcb
    exact ⟨t, v, hv ▸ processBlock_one hw ht⟩

/-! ## Conversions of the setters -/

theorem clampInt_bounds (x : Int) {lo hi : Int} (h : lo ≤ hi) : lo ≤ clampInt x lo hi ∧ clampInt x lo hi ≤ hi :=
  ⟨le_min (le_max_right x lo) h, min_le_right _ hi⟩

theorem clampRat_bounds (x : Rat) {lo hi : Rat} (h : lo ≤ hi) : lo ≤ clampRat x lo hi ∧ clampRat x lo hi ≤ hi :=
  ⟨le_min (le_max_right x lo) h, min_le_right _ hi⟩

theorem clampRat_of_le {x lo hi : Rat} (hx : x ≤ lo) (h : lo ≤ hi) : clampRat x lo hi = lo := by
  rw [clampRat, max_eq_right hx, min_eq_left h]

theorem clampRat_of_ge {x hi : Rat} (lo : Rat) (hx : hi ≤ x) : clampRat x lo hi = hi :=
  min_eq_right (hx.trans (le_max_left x lo))

/-- A clamped integer that fits its field (`44_node_adapter.md` R231, R233, R236, R237). -/
theorem toNat_fieldOf_clampInt {width top : Nat} (h : top < 2 ^ width) (x : Int) :
    ((fieldOf width (clampInt x 0 top)).toNat : Int) = min (max x 0) top := by
  obtain ⟨hlo, hhi⟩ := clampInt_bounds x (Int.natCast_nonneg top)
  exact toNat_fieldOf hlo (hhi.trans_lt (by exact_mod_cast h))

theorem toNat_clampedField {width top : Nat} (h : top < 2 ^ width) (x : Int) :
    ((clampedField width top x).toNat : Int) = min (max x 0) top := by
  obtain ⟨hlo, hhi⟩ := clampInt_bounds x (Int.natCast_nonneg top)
  exact toNat_ofInt_of_fits hlo (hhi.trans_lt (by exact_mod_cast h))

/-- A fraction of a register's maximum lies between 0 and that maximum (`44_node_adapter.md` R229, R233 to R235). -/
theorem toNat_fractionOf {top : Nat} (h : top < 2 ^ 24) (f : Rat) :
    ((fractionOf top f).toNat : Int) = (min (max f 0) 1 * top).floor := by
  obtain ⟨hlo, hhi⟩ := clampRat_bounds f (zero_le_one' Rat)
  have htop : (0 : Rat) ≤ top := Nat.cast_nonneg top
  refine toNat_fieldOf (Rat.le_floor_iff.mpr ?_) (Rat.floor_lt_iff.mpr ?_)
  · exact_mod_cast mul_nonneg hlo htop
  · calc clampRat f 0 1 * top
      _ ≤ top := mul_le_of_le_one_left htop hhi
      _ < ((2 ^ 24 : Int) : Rat) := by exact_mod_cast h

/-- The number that `setFrequencyHz` sends where it fits the operand (`44_node_adapter.md` R228). -/
def frequencyNumber (c : Config) (hz : Rat) : Int :=
  (clampRat hz c.freqHzMin c.freqHzMax * 2 ^ c.accBits / c.clockRate + 1 / 2).floor

theorem setFrequencyHz_of_fits {c : Config} {hz : Rat} (h0 : 0 ≤ frequencyNumber c hz)
    (h : frequencyNumber c hz < 2 ^ 24) :
    ∃ v : Imm, setFrequencyHz c hz = .wgWrfreq v ∧ (v.toNat : Int) = frequencyNumber c hz :=
  ⟨_, rfl, toNat_fieldOf h0 h⟩

theorem setFrequencyHz_eq {c : Config} {hz : Rat} {f : Imm} (h : frequencyNumber c hz = f.toNat) :
    setFrequencyHz c hz = .wgWrfreq f := by
  have hlt := f.isLt
  obtain ⟨v, hv, hto⟩ := setFrequencyHz_of_fits (c := c) (hz := hz) (by omega) (by omega)
  rw [hv, BitVec.eq_of_toNat_eq (x := v) (y := f) (by omega)]

theorem le_frequencyNumber_iff (z : Int) (hz : Rat) : z ≤ frequencyNumber nodeConfig hz ↔
    (z : Rat) ≤ clampRat hz (1 / 10) 20000 * 2 ^ 24 / 985248 + 1 / 2 := Rat.le_floor_iff

theorem frequencyNumber_eq_iff (z : Int) (hz : Rat) : frequencyNumber nodeConfig hz = z ↔
    (z : Rat) ≤ clampRat hz (1 / 10) 20000 * 2 ^ 24 / 985248 + 1 / 2 ∧
      clampRat hz (1 / 10) 20000 * 2 ^ 24 / 985248 + 1 / 2 < (z + 1 : Int) := by
  rw [← le_frequencyNumber_iff, ← not_le, ← le_frequencyNumber_iff]
  omega

/-- At the defaults the clamped frequency bounds the number on both sides. -/
theorem frequencyNumber_bounds (hz : Rat) :
    2 ≤ frequencyNumber nodeConfig hz ∧ frequencyNumber nodeConfig hz ≤ 340568 := by
  obtain ⟨hlo, hhi⟩ := clampRat_bounds hz (lo := 1 / 10) (hi := 20000) (by norm_num)
  have hlt : ¬ 340569 ≤ frequencyNumber nodeConfig hz := by
    rw [le_frequencyNumber_iff]
    norm_num
    linarith
  refine ⟨(le_frequencyNumber_iff 2 hz).mpr ?_, by omega⟩
  norm_num
  linarith

theorem frequencyNumber_of_le {hz : Rat} (h : hz ≤ 1 / 10) : frequencyNumber nodeConfig hz = 2 := by
  rw [frequencyNumber_eq_iff, clampRat_of_le h (by norm_num)]
  norm_num

theorem frequencyNumber_of_ge {hz : Rat} (h : 20000 ≤ hz) : frequencyNumber nodeConfig hz = 340568 := by
  rw [frequencyNumber_eq_iff, clampRat_of_ge _ h]
  norm_num

theorem setFrequencyHz_nodeConfig (hz : Rat) : ∃ f : Imm, setFrequencyHz nodeConfig hz = .wgWrfreq f ∧
    2 ≤ f.toNat ∧ f.toNat ≤ 340568 ∧ (hz ≤ 1 / 10 → f.toNat = 2) ∧ (20000 ≤ hz → f.toNat = 340568) ∧
    (f.toNat : Int) = frequencyNumber nodeConfig hz := by
  obtain ⟨hlo, hhi⟩ := frequencyNumber_bounds hz
  obtain ⟨f, hf, hto⟩ := setFrequencyHz_of_fits (c := nodeConfig) (hz := hz) (by omega) (by omega)
  refine ⟨f, hf, by omega, by omega, fun h => ?_, fun h => ?_, hto⟩
  · have := frequencyNumber_of_le h
    omega
  · have := frequencyNumber_of_ge h
    omega

theorem setPulseWidth_of_fits {c : Config} (h : c.pwBits ≤ 24) (x : Rat) : ∃ p : Imm,
    setPulseWidth c x = .wgWrpw p ∧ (p.toNat : Int) = (min (max x 0) 1 * (2 ^ c.pwBits - 1)).floor := by
  have hpos : 1 ≤ 2 ^ c.pwBits := Nat.one_le_two_pow
  have hle : 2 ^ c.pwBits ≤ 2 ^ 24 := Nat.pow_le_pow_right (by decide) h
  have hto := toNat_fractionOf (top := 2 ^ c.pwBits - 1) (by omega) x
  push_cast [hpos] at hto
  exact ⟨_, rfl, hto⟩

/-- Every voice index is one of the three (`30_encoding.md` R90). -/
theorem setVoiceVolume_of_fits {c : Config} (h : c.unityVolume < 2 ^ 16) (k : Fin 3) (x : Int) :
    ∃ val : BitVec 16, setVoiceVolume c k x = .flWrvvol (BitVec.ofNat 2 k) val ∧
      (val.toNat : Int) = min (max x 0) c.unityVolume ∧ (setVoiceVolume c k x).WellFormed := by
  refine ⟨_, rfl, toNat_fieldOf_clampInt h x, ?_⟩
  have hk : BitVec.ofNat 2 k ≠ 3#2 := by revert k; decide
  exact bne_iff_ne.mpr hk

theorem setWaveform_bits (tri saw pul noi : Bool) : ∃ m : BitVec 4, setWaveform tri saw pul noi = .wgWrwave m ∧
    m.getLsbD 0 = tri ∧ m.getLsbD 1 = saw ∧ m.getLsbD 2 = pul ∧ m.getLsbD 3 = noi := by
  refine ⟨_, rfl, ?_⟩
  revert tri saw pul noi
  decide

theorem toNat_ofInt_emod (width : Nat) (x : Int) :
    ((BitVec.ofInt width (x % 2 ^ width)).toNat : Int) = x % 2 ^ width :=
  toNat_ofInt_of_fits (Int.emod_nonneg x (by positivity)) (Int.emod_lt_of_pos x (by positivity))

theorem toInt_sampleOf (x : Int) : (sampleOf x).toInt = min (max x (-524288)) 524287 := by
  obtain ⟨hlo, hhi⟩ := clampInt_bounds x (lo := -524288) (hi := 524287) (by decide)
  exact BitVec.toInt_ofInt_eq_self (by decide) hlo (by omega)

/-- Settles O59: each conversion is a clamp, a mask or a bit that its field holds. -/
theorem settersClampExactly : Obligations.SettersClampExactly := by
  have h440 : frequencyNumber nodeConfig 440 = 7493 := by
    rw [frequencyNumber_eq_iff]
    norm_num [clampRat]
  have h1000 : frequencyNumber nodeConfig 1000 = 17028 := by
    rw [frequencyNumber_eq_iff]
    norm_num [clampRat]
  refine ⟨setFrequencyHz_nodeConfig, setFrequencyHz_eq h440, setFrequencyHz_eq h1000, fun x => ?_,
    fun c hz => setFrequencyHz_of_fits, fun c x h => setPulseWidth_of_fits h x, fun a d su r => ?_,
    fun x => ?_, setVoiceVolume_of_fits (c := nodeConfig) (by decide), fun c hc => ?_, setWaveform_bits, fun x => ?_,
    fun b => ?_, fun m => ?_, toInt_sampleOf⟩
  · exact ⟨_, _, _, _, rfl, toNat_fractionOf (top := 4095) (by decide) x,
      rfl, toNat_fractionOf (top := 2047) (by decide) x, rfl, toNat_fractionOf (top := 15) (by decide) x,
      rfl, toNat_fractionOf (top := 255) (by decide) x⟩
  · have h15 := toNat_clampedField (width := 4) (top := 15) (by decide)
    exact ⟨_, _, _, _, rfl, h15 a, h15 d, h15 su, h15 r⟩
  · exact ⟨_, _, rfl, toNat_fieldOf_clampInt (top := 2047) (by decide) x, rfl,
      toNat_clampedField (top := 15) (by decide) x⟩
  · exact ⟨fun f => ⟨_, rfl, toNat_fractionOf hc.cutoffMax_lt f⟩,
      fun x => ⟨_, rfl, toNat_fieldOf_clampInt hc.cutoffMax_lt x⟩, setVoiceVolume_of_fits hc.unityVolume_lt⟩
  · exact ⟨_, _, rfl, toNat_ofInt_emod 4 x, rfl, toNat_ofInt_emod 3 x⟩
  · cases b <;> exact ⟨rfl, rfl⟩
  · cases m <;> exact ⟨rfl, rfl⟩

/-! ## Normalised outputs -/

/-- A signed value below half a range, over that half. -/
theorem div_half_bounds {x half : Rat} (hpos : 0 < half) (hlo : -half ≤ x) (hhi : x < half) :
    -1 ≤ x / half ∧ x / half < 1 :=
  ⟨(le_div_iff₀ hpos).mpr (by linarith), (div_lt_one hpos).mpr hhi⟩

theorem normalizeEnvelope_bounds {v : Int} (hlo : 0 ≤ v) (hhi : v ≤ 255) :
    0 ≤ normalizeEnvelope v ∧ normalizeEnvelope v ≤ 1 := by
  have hlo : (0 : Rat) ≤ v := by exact_mod_cast hlo
  have hhi : (v : Rat) ≤ 255 := by exact_mod_cast hhi
  exact ⟨div_nonneg hlo (by norm_num), (div_le_one (by norm_num)).mpr hhi⟩

theorem normalizeOscillator_bounds {c : Config} {v : Int} (hbits : 1 ≤ c.waveBits) (hlo : 0 ≤ v)
    (hhi : v < 2 ^ c.waveBits) : -1 ≤ normalizeOscillator c v ∧ normalizeOscillator c v < 1 := by
  have hdouble : (2 : Rat) ^ c.waveBits = 2 * 2 ^ (c.waveBits - 1) := (mul_pow_sub_one (by omega) 2).symm
  have hlo : (0 : Rat) ≤ v := by exact_mod_cast hlo
  have hhi : (v : Rat) < 2 ^ c.waveBits := by exact_mod_cast hhi
  exact div_half_bounds (by positivity) (by linarith) (by linarith)

theorem normalizeFilter_bounds {c : Config} {v : Int} (hlo : -(2 ^ (c.satBits - 1)) ≤ v)
    (hhi : v < 2 ^ (c.satBits - 1)) : -1 ≤ normalizeFilter c v ∧ normalizeFilter c v < 1 :=
  div_half_bounds (by positivity) (by exact_mod_cast hlo) (by exact_mod_cast hhi)

theorem normalize_nodeConfig (v : Int) : normalizeOscillator nodeConfig v = ((v : Rat) - 2048) / 2048 ∧
    normalizeEnvelope v = (v : Rat) / 255 ∧ normalizeFilter nodeConfig v = (v : Rat) / 32768 := by
  norm_num [normalizeOscillator, normalizeEnvelope, normalizeFilter, nodeConfig]

/-- Settles O60: each result over half of its range, or over its maximum. -/
theorem normalizedOutputsStayInRange : Obligations.NormalizedOutputsStayInRange := by
  refine ⟨normalize_nodeConfig, fun _ => normalizeEnvelope_bounds, fun _ _ => normalizeOscillator_bounds,
    fun _ _ => normalizeFilter_bounds, ?_, ?_, ?_⟩
  · norm_num [normalizeOscillator, nodeConfig]
  · norm_num [normalizeEnvelope]
  · norm_num [normalizeFilter, nodeConfig]

end Sys2Proof.Machine
end

section
/-! PROOFS. The statements of `60_exceptions.md`: the outcomes a step can have, and the gate of the life states. -/

namespace Sys2Proof.Machine

/-! ## What the gates refuse -/

/-- An unconstructed unit refuses every well-formed command but its `CONSTRUCT`. -/
theorem exec_of_unconstructed {i : Instr} {s : State} (hi : i.WellFormed) (hc : i.isConstruct = false)
    (hu : s.hasUnit i.unit = true) (hl : s.life i.unit = .unconstructed) :
    exec i s = .refused .unitUnconstructed := by
  obtain ⟨k, he⟩ := exec_eq_requireReady s hi hc
  rw [he, requireReady_of_unconstructed k hu hl]

/-- So does a faulted unit. -/
theorem exec_of_faulted {i : Instr} {s : State} (hi : i.WellFormed) (hc : i.isConstruct = false)
    (hu : s.hasUnit i.unit = true) {info : Imm} (hl : s.life i.unit = .faulted info) :
    exec i s = .refused .unitFaulted := by
  obtain ⟨k, he⟩ := exec_eq_requireReady s hi hc
  rw [he, requireReady_of_faulted k hu hl]

/-! ## The outcomes of a command and of a step -/

/-- The end of `FL.CLOCK` is a next state, or the model's one fault (`42_filter.md` R188). -/
theorem finishFilter_cases (r : Except Fault FilterUnit) (s : State) :
    (∃ t, finishFilter r s = .next t) ∨ finishFilter r s = .fault .filterRange := by
  cases r with
  | ok f => exact .inl ⟨_, rfl⟩
  | error e =>
    cases e
    exact .inr rfl

/-- Past its gate every command executes, but for an `FL.CLOCK` whose voltages leave their range. -/
theorem exec_of_ready {i : Instr} {s : State} (hi : i.WellFormed) (hu : s.hasUnit i.unit = true)
    (hl : i.isConstruct = false → s.life i.unit = .ready) :
    (∃ t, exec i s = .next t) ∨ (exec i s = .fault .filterRange ∧ ∃ n, i = .flClock n) := by
  cases i with
  | cbConstruct sr =>
    by_cases h0 : sr = 0
    · exact .inl ⟨_, h0 ▸ exec_cbConstruct_zero s⟩
    · exact .inl ⟨_, exec_cbConstruct_of_ne h0 s⟩
  | wgConstruct | egConstruct | flConstruct => exact .inl ⟨_, requirePresent_of_hasUnit _ hu⟩
  | wgOut =>
    have he : exec .wgOut s = answerWave (wgOutput nodeConfig s.wg) s := requireReady_of_accepts _ ⟨hu, hl rfl⟩
    rcases answerWave_cases (wgOutput nodeConfig s.wg) s with ⟨_, -, ha⟩ | ⟨-, ha⟩ <;> exact .inl ⟨_, he.trans ha⟩
  | flWrvvol k val =>
    have hk : k ≠ 3#2 := by simpa [Instr.WellFormed, Instr.wellFormed] using hi
    obtain ⟨_, he, -⟩ := flWrvvolAt_of_accepts nodeConfig val hk ⟨hu, hl rfl⟩
    exact .inl ⟨_, he⟩
  | flClock n =>
    have he : exec (.flClock n) s = finishFilter (flClocked nodeConfig s.portValues n.toNat s.fl) s :=
      flClockAt_of_accepts ⟨hu, hl rfl⟩ nodeConfig n
    rw [he]
    exact (finishFilter_cases _ s).imp_right fun hf => ⟨hf, n, rfl⟩
  | _ => exact .inl ⟨_, requireReady_of_accepts _ ⟨hu, hl rfl⟩⟩

/-- Every outcome of a well-formed command (`60_exceptions.md` R254): it executes, or `FL.CLOCK` faults, or a gate
refuses it. -/
theorem exec_outcomes {i : Instr} (s : State) (hi : i.WellFormed) :
    (∃ t, exec i s = .next t) ∨ (exec i s = .fault .filterRange ∧ ∃ n, i = .flClock n) ∨
      ∃ r ∈ [Refusal.unitAbsent, .unitUnconstructed, .unitFaulted], exec i s = .refused r := by
  cases hu : s.hasUnit i.unit with
  | false => exact .inr (.inr ⟨_, by simp, exec_of_absent hi hu⟩)
  | true =>
    cases hc : i.isConstruct with
    | true => exact (exec_of_ready hi hu (by simp [hc])).imp_right .inl
    | false =>
      cases hl : s.life i.unit with
      | ready => exact (exec_of_ready hi hu fun _ => hl).imp_right .inl
      | unconstructed => exact .inr (.inr ⟨_, by simp, exec_of_unconstructed hi hc hu hl⟩)
      | faulted info => exact .inr (.inr ⟨_, by simp, exec_of_faulted hi hc hu hl⟩)

theorem refusalOf_mem (e : DecodeError) :
    refusalOf e ∈ [Refusal.reservedUnit, .reservedOp, .reservedVoice] := by cases e <;> decide

/-- Settles O7: a word that names no operation is refused as its kind, and any other is well formed, so that its
outcomes are those of `exec_outcomes`. -/
theorem everyStepHasOneOfTheSpecsOutcomes : Obligations.EveryStepHasOneOfTheSpecsOutcomes := by
  intro s
  cases hs : s.stream with
  | nil => exact .inl ⟨s, step_nil hs⟩
  | cons c rest =>
    rw [step_cons hs]
    cases hd : decode c.word with
    | error e =>
      exact .inr ⟨c, rest, rfl, .inr ⟨_, issue_of_error _ hd, List.mem_append_left _ (refusalOf_mem e)⟩⟩
    | ok i =>
      obtain ⟨hi, -⟩ := decodedInstructionsAreWellFormed c.word i hd
      rw [issue_of_ok _ hd]
      rcases exec_outcomes _ hi with hnext | ⟨hfault, n, rfl⟩ | ⟨r, hr, href⟩
      · exact .inl hnext
      · exact .inr ⟨c, rest, rfl, .inl ⟨hfault, n, hd⟩⟩
      · exact .inr ⟨c, rest, rfl, .inr ⟨r, href, List.mem_append_right [_, _, _] hr⟩⟩

/-! ## The life of the generators -/

/-- `WG.CONSTRUCT` makes WG `Ready`, and no other command writes its life state. -/
theorem wgAfter_life (c : Config) (i : Instr) (w : WaveformGenerator) :
    (wgAfter c i w).life = .ready ∨ (wgAfter c i w).life = w.life := by
  cases i with
  | wgConstruct => exact .inl rfl
  | wgClock n => exact .inr (wgCycle_iterate_life c n.toNat w)
  | _ => exact .inr rfl

/-- The same of EG. -/
theorem egAfter_life (c : Config) (i : Instr) (e : EnvelopeGenerator) :
    (egAfter c i e).life = .ready ∨ (egAfter c i e).life = e.life := by
  cases i with
  | egConstruct => exact .inl rfl
  | egClock n => exact .inr (egCycle_iterate_life c n.toNat e)
  | egWrgate bit => exact .inr (egWithGate_life c (flagOf bit) e)
  | _ => exact .inr rfl

/-- The same of FL. -/
theorem flAfter_life {c : Config} {p : SamplePorts} {i : Instr} {f g : FilterUnit} (h : flAfter c p i f = some g) :
    g.life = .ready ∨ g.life = f.life := by
  cases i with
  | flConstruct => exact .inl (Option.some.inj h ▸ rfl)
  | flClock n =>
    rw [flClocked_frame (flClocked_of_flAfter h)]
    exact .inr rfl
  | flWrvvol k val =>
    obtain ⟨_, -, rfl⟩ := Option.map_eq_some_iff.mp h
    exact .inr rfl
  | _ => exact .inr (Option.some.inj h ▸ rfl)

theorem Life.NotFaulted.of_ready_or_eq {l l' : Life} (h : l.NotFaulted) (hl : l' = .ready ∨ l' = l) :
    l'.NotFaulted := by
  rcases hl with rfl | rfl
  · exact nofun
  · exact h

/-- Settles O8: the gate of the life states refuses, and a command leaves each generator `Ready` or in the life state
it had. -/
theorem unreadyUnitsRefuseAllButConstruct : Obligations.UnreadyUnitsRefuseAllButConstruct := by
  refine ⟨fun i s hi hc hu => ⟨exec_of_unconstructed hi hc hu, fun _ => exec_of_faulted hi hc hu⟩, fun i s t h => ?_⟩
  rw [← execAt_nodeConfig] at h
  obtain ⟨-, hwg, heg, hfl⟩ := execAt_next_units h
  rintro ⟨hw, he, hf⟩
  exact ⟨hw.of_ready_or_eq (hwg ▸ wgAfter_life _ _ _), he.of_ready_or_eq (heg ▸ egAfter_life _ _ _),
    hf.of_ready_or_eq (flAfter_life hfl)⟩

end Sys2Proof.Machine
end

section
/-! PROOFS. The statements of `70_reset_and_hazards.md`: a hard reset forgets the unit it replaces. -/

namespace Sys2Proof.Machine

/-! ## The second of two writes of one unit -/

@[simp] theorem State.setCb_setCb (s : State) (b b' : ClockBridge) : (s.setCb b).setCb b' = s.setCb b' := by
  simp [State.setCb]

@[simp] theorem State.setWg_setWg (s : State) (w w' : WaveformGenerator) : (s.setWg w).setWg w' = s.setWg w' := rfl
@[simp] theorem State.setEg_setEg (s : State) (e e' : EnvelopeGenerator) : (s.setEg e).setEg e' = s.setEg e' := rfl
@[simp] theorem State.setFl_setFl (s : State) (f f' : FilterUnit) : (s.setFl f).setFl f' = s.setFl f' := rfl

/-! ## Hard resets -/

/-- The gate of `CONSTRUCT` looks at the addressed node alone, at no unit (`30_encoding.md` R90). -/
theorem requirePresent_congr {u : UnitId} {s s' : State} {k k' : Result} (hsel : s.sel = s'.sel) (hk : k = k') :
    requirePresent u s k = requirePresent u s' k' := by
  rw [requirePresent, requirePresent, State.hasUnit, State.hasUnit, hsel, hk]

theorem exec_wgConstruct_setWg (s : State) (w : WaveformGenerator) :
    exec .wgConstruct (s.setWg w) = exec .wgConstruct s :=
  requirePresent_congr (s.setWg_sel w) (congrArg done (s.setWg_setWg w _))

theorem exec_egConstruct_setEg (s : State) (e : EnvelopeGenerator) :
    exec .egConstruct (s.setEg e) = exec .egConstruct s :=
  requirePresent_congr (s.setEg_sel e) (congrArg done (s.setEg_setEg e _))

theorem exec_flConstruct_setFl (s : State) (f : FilterUnit) :
    exec .flConstruct (s.setFl f) = exec .flConstruct s :=
  requirePresent_congr (s.setFl_sel f) (congrArg done (s.setFl_setFl f _))

/-- A positive rate alone: rate 0 keeps the rate and the residue of the ClockBridge it faults (`60_exceptions.md` R251). -/
theorem exec_cbConstruct_setCb {sr : Imm} (hsr : sr ≠ 0) (s : State) (b : ClockBridge) :
    exec (.cbConstruct sr) (s.setCb b) = exec (.cbConstruct sr) s := by
  rw [exec_cbConstruct_of_ne hsr, exec_cbConstruct_of_ne hsr, s.setCb_setCb]

/-- Settles O10: the gate of `CONSTRUCT` looks at no unit, and its write replaces the whole unit. -/
theorem constructForgetsThePriorUnit : Obligations.ConstructForgetsThePriorUnit :=
  ⟨exec_wgConstruct_setWg, exec_egConstruct_setEg, exec_flConstruct_setFl,
    fun s b _ hsr => exec_cbConstruct_setCb hsr s b⟩

end Sys2Proof.Machine
end
